-- ==== Sys2Proof/Word.lean ====
section
/-! DEFINITION. The words and the enumerations of the block (00_scope.md R8, R11). -/

namespace Sys2Proof

/-- A command word `cmd[3:0]` (R70). -/
abbrev CmdWord := BitVec 4

/-- A status word, the 16-bit read data of the status port (R51). -/
abbrev StatusWord := BitVec 16

/-- A coil-energisation pattern, one bit per coil lead (R100). -/
abbrev Pattern := BitVec 4

/-- The step mode (R11; source StepMode). -/
inductive Mode where
  | full
  | half
deriving DecidableEq, Repr, Inhabited

/-- A direction (R11). The code `11` is never produced by the block and has no constructor (log entry 9). -/
inductive Direction where
  | none
  | forward
  | backward
deriving DecidableEq, Repr, Inhabited

/-- One draw of the two encoder lines, the values of `enc_a` and `enc_b` at a sample (R151). -/
structure EncSample where
  a : Bool
  b : Bool
deriving DecidableEq, Repr, Inhabited

end Sys2Proof
end

