-- ==== Sys2Proof/Syntax.lean ====
section
/-! DEFINITION. The commands of the block, one constructor per row of spec/opcode_table.json (R72). No command has an
operand (R71). -/

namespace Sys2Proof

inductive Instr where
  /-- NOP, R188 -/
  | nop
  /-- STEP_FWD, R114 -/
  | stepFwd
  /-- STEP_BWD, R115 -/
  | stepBwd
  /-- SET_FULL, R135 -/
  | setFull
  /-- SET_HALF, R136 -/
  | setHalf
  /-- MODE_TOGGLE, R137 -/
  | modeToggle
  /-- MARK, R171 -/
  | mark
  /-- SEEK, R174 -/
  | seek
  /-- POLL, R157 -/
  | poll
  /-- SERVICE, R185 -/
  | service
deriving DecidableEq, Repr

end Sys2Proof
end

