-- ==== Sys2Proof/WellFormed.lean ====
section
/-! DEFINITION. What is well formed: a command word that is no reserved code (R72, R75), a status address that is no
reserved address (R53, R54), a line of a program (R77). A command itself has no operand to check (R71). -/

namespace Sys2Proof

/-- Every command is well formed: it has no operand field (R71). -/
def Instr.wf : Instr → Bool
  | .nop => true
  | .stepFwd => true
  | .stepBwd => true
  | .setFull => true
  | .setHalf => true
  | .modeToggle => true
  | .mark => true
  | .seek => true
  | .poll => true
  | .service => true

/-- A command word that stands for a command: `0000` to `1001`; `1010` to `1111` are reserved (R72, R75). -/
def CmdWord.wf (w : CmdWord) : Bool := decide (w.toNat ≤ 9)

/-- A status address with a register behind it: `0x0` to `0x9` (R53); `0xA` to `0xF` are reserved (R54, U9). -/
def statusAddrWf (addr : BitVec 4) : Bool := decide (addr.toNat ≤ 9)

/-- One line of a program (R77): a command, for POLL with the values of the lines at its three samples if the line gives
them (`[]` if not), written `count` times in a row; or a stimulus line. -/
inductive Line where
  | command (i : Instr) (lines : List EncSample) (count : Nat)
  | tick
  | reset
deriving DecidableEq, Repr

/-- A sample annotation stands on POLL only and gives exactly three samples (R77, R152). -/
def Line.wf : Line → Bool
  | .command i lines _ => i.wf && (lines.isEmpty || (decide (i = .poll) && decide (lines.length = 3)))
  | .tick => true
  | .reset => true

end Sys2Proof
end

