-- ==== Sys2Proof/Decode.lean ====
section
/-! DEFINITION. Decoding and encoding of command words (R70, R72, R75). -/

namespace Sys2Proof

/-- Why a word is no command. -/
inductive DecodeReject where
  /-- One of `1010` to `1111` (R75). -/
  | reservedCode (w : CmdWord)
  /-- A number that is no 4-bit word: `cmd` has four bits (R70). -/
  | notFourBits (w : Nat)
deriving DecidableEq, Repr

/-- The command a word stands for, total on all 16 values (R72, R75). -/
def decode (w : CmdWord) : Except DecodeReject Instr :=
  match w.toNat with
  | 0 => .ok .nop
  | 1 => .ok .stepFwd
  | 2 => .ok .stepBwd
  | 3 => .ok .setFull
  | 4 => .ok .setHalf
  | 5 => .ok .modeToggle
  | 6 => .ok .mark
  | 7 => .ok .seek
  | 8 => .ok .poll
  | 9 => .ok .service
  | _ => .error (.reservedCode w)

/-- The command read from a number: rejected by name where it does not fit the four bits of `cmd` (R70). -/
def decodeNat (w : Nat) : Except DecodeReject Instr :=
  if w < 16 then decode (BitVec.ofNat 4 w) else .error (.notFourBits w)

/-- The code of a command (R72). -/
def encode : Instr → CmdWord
  | .nop => 0b0000#4
  | .stepFwd => 0b0001#4
  | .stepBwd => 0b0010#4
  | .setFull => 0b0011#4
  | .setHalf => 0b0100#4
  | .modeToggle => 0b0101#4
  | .mark => 0b0110#4
  | .seek => 0b0111#4
  | .poll => 0b1000#4
  | .service => 0b1001#4

/-- The command the decoder reads from a table row's word; every row has one word of 4 bits, so `nbits` adds nothing. -/
def decodeTableWord (_nbits w : Nat) : Option Instr :=
  match decodeNat w with
  | .ok i => some i
  | .error _ => Option.none

end Sys2Proof
end

