-- ==== Sys2Proof/Config.lean ====
section
/-! DEFINITION. What an implementation fixes (R6, R13) and the free values. Every opaque constant here has no body, so no
proof can see its value: a claim holds whatever it is. -/

namespace Sys2Proof.Config

/-- `STEP_TABLE_FULL[0..3]`: four 4-bit entries, OPEN (R6, R100, D7). No relation to the other table may be assumed (R104). -/
opaque stepTableFull : Fin 4 → Pattern

/-- `STEP_TABLE_HALF[0..7]`: eight 4-bit entries, OPEN (R6, R100, D7). -/
opaque stepTableHalf : Fin 8 → Pattern

/-- What `pattern_for` answers for an index outside the Full table. R101: it is called only with an index inside the table, so
the spec states no value; reached only from a register value no run produces (log entry 4). -/
opaque patternOutsideTable : BitVec 3 → Pattern

/-- The free draws of the encoder lines: the values the lines have at the `n`-th sample, under no law (R151, U6, log entry 5). -/
opaque encSample : Nat → EncSample

/-- What halving a negative seek distance gives. R10 defines `div` for non-negative operands alone; a negative distance arises
only where `POS` or `MARK` is outside its legal values, which no run produces (log entry 8). -/
opaque seekRemOutOfRange : Int → Nat

/-- `TICK_PERIOD` in tenths of the source's unnamed time unit: 0.3 units (R6, R181, D24). No rule reads it (R242). -/
def tickPeriodTenths : Nat := 3

/-- `SETTLE_DELAY`: OPEN (R6, R152, D24). No rule reads it (R242). -/
opaque settleDelay : Nat

end Sys2Proof.Config
end

