-- ==== Sys2Proof/Machine/State.lean ====
section
/-! DEFINITION. The state of the block (10_state.md R23, R36), its inputs, its faults and refusals, and its reset state. -/

namespace Sys2Proof.Machine

/-- One entry of the output event sequence (R36). -/
inductive Emission where
  /-- `COIL(p)`: one call of `set_coil_outputs` (R208). -/
  | coil (p : Pattern)
  /-- `NOTIFY(pos, angle_q2, mode)`: one notification of the display sink (R210). -/
  | notify (pos : BitVec 7) (angleQ2 : BitVec 11) (mode : Mode)
  /-- `HILITE(h)`: the highlight toggle value of an executed seek tick (R210). -/
  | hilite (h : Bool)
deriving DecidableEq, Repr

/-- One event (R57). -/
inductive Event where
  /-- The host presents a command word; `lines` are the values the encoder lines have at the samples taken during the
  command, first sample first (R13, R151). Where `lines` is too short, a sample is a free draw (log entry 5). -/
  | command (w : CmdWord) (lines : List EncSample)
  /-- The seek timer fires (R182). -/
  | tick
  /-- `rst` is asserted (R230). -/
  | reset
deriving DecidableEq, Repr

/-- The state: the thirteen registers of R23, the output event sequence of R36, and the model's own fields that hold the
inputs still to come and count the samples taken (log entries 1 and 5). -/
structure State where
  /-- `MODE` -/
  mode : Mode
  /-- `PHASE`, legal below `PHASE_MOD(MODE)` -/
  phase : BitVec 3
  /-- `POS`, legal below `POS_MOD(MODE)` -/
  pos : BitVec 7
  /-- `MARK`, legal below `POS_MOD(MODE)` -/
  mark : BitVec 7
  /-- `SEEK_REM` -/
  seekRem : BitVec 5
  /-- `SEEK_DIR` -/
  seekDir : Direction
  /-- `STEP_DUE`: one bit, never a count (R34) -/
  stepDue : Bool
  /-- `TIMER_ARMED` -/
  timerArmed : Bool
  /-- `ENC_PREV`, packed `b<<1 | a` -/
  encPrev : BitVec 2
  /-- `LAST_POLL_DIR` -/
  lastPollDir : Direction
  /-- `COIL_OUT`, the level on the `coil` port (R22) -/
  coilOut : Pattern
  /-- `HILITE` -/
  hilite : Bool
  /-- `CMD_ERR`, sticky (R202) -/
  cmdErr : Bool
  /-- The output event sequence, oldest first (R36). -/
  out : List Emission
  /-- The model's own: the events still to come, in their total order (R57, log entry 1). -/
  events : List Event
  /-- The model's own: the encoder line values the next samples will see (R151, log entry 5). -/
  encLines : List EncSample
  /-- The model's own: how many samples have been taken; it selects the free draw (log entry 5). -/
  sampleCount : Nat
deriving DecidableEq, Repr

/-- Why the machine stops. The block raises no exception and has no trap (R200), so there is no constructor: no step faults. -/
inductive Fault
deriving DecidableEq, Repr

/-- Why the model gives no next state. -/
inductive Refusal where
  /-- Raised by exec for a command that has no meaning yet; no arm of exec raises it. Safe. -/
  | notModelled (mnemonic : String)
  /-- Raised by the tick event where `TIMER_ARMED = 0`: an event order that R183 says is impossible (log entry 2). Safe: the
  model stops where the hardware has no such event. -/
  | tickNotAdmitted
deriving DecidableEq, Repr

/-- Right after reset or power-up (R231, R233); the model's own fields as log entry 14 says. -/
def State.reset : State where
  mode := .full
  phase := 0
  pos := 0
  mark := 0
  seekRem := 0
  seekDir := .none
  stepDue := false
  timerArmed := false
  encPrev := 0
  lastPollDir := .none
  coilOut := 0
  hilite := false
  cmdErr := false
  out := []
  events := []
  encLines := []
  sampleCount := 0

end Sys2Proof.Machine
end

