-- ==== Sys2Proof/Machine/Flags.lean ====
section
/-! DEFINITION. The flags `STEP_DUE`, `TIMER_ARMED`, `HILITE`, `CMD_ERR` (R33). There are no arithmetic condition codes. -/

namespace Sys2Proof.Machine

/-- `raise CmdErr(code)`: `CMD_ERR <- 1` and nothing else; the code is not recorded (R202). The block has no other error and
no exception to take (R200). -/
def raiseCmdErr (s : State) : State := { s with cmdErr := true }

/-- `HILITE <- not HILITE` (R185). -/
def toggleHilite (s : State) : State := { s with hilite := !s.hilite }

/-- `STEP_DUE <- 0` (R185). -/
def clearStepDue (s : State) : State := { s with stepDue := false }

/-- What a new seek job of `rem` ticks leaves in `TIMER_ARMED`: `(rem > 0) ? 1 : 0` (R174). -/
def armedFor (rem : Nat) : Bool := decide (0 < rem)

end Sys2Proof.Machine
end

