-- ==== Sys2Proof/Machine/Operands.lean ====
section
/-! DEFINITION. The constants of R6, the enumeration codes of R11, and the derived read-only values of R26. Commands have no
operand field (R71): what a command reads, it reads from State through these. -/

namespace Sys2Proof.Machine

/-- `Mode` as stored: 0 Full, 1 Half (R11). -/
def modeBit : Mode → BitVec 1
  | .full => 0
  | .half => 1

/-- `Direction` as stored: `00` None, `01` Forward, `10` Backward (R11). -/
def dirBits : Direction → BitVec 2
  | .none => 0b00
  | .forward => 0b01
  | .backward => 0b10

/-- `flip(d)` (R12). -/
def flipDir : Direction → Direction
  | .none => .none
  | .forward => .backward
  | .backward => .forward

/-- `PHASE_MOD(m)`, which is also `phase_modulus(m)` (R6, R102). -/
def phaseMod : Mode → Nat
  | .full => 4
  | .half => 8

/-- `POS_MOD(m)` (R6; 90_conflicts.md C1: the numbers win over the formula). -/
def posMod : Mode → Nat
  | .full => 48
  | .half => 96

/-- `SEEK_STEPS_PER_TICK` (R6; 90_conflicts.md C3). -/
def seekStepsPerTick : Nat := 2

/-- `pattern_for(mode, phase_index)` (R101). Half mode has an entry for every 3-bit index; in Full mode the rule is never
called with an index of 4 or more, and the value there is free (log entry 4). -/
def patternFor (m : Mode) (p : BitVec 3) : Pattern :=
  match m with
  | .half => Config.stepTableHalf p.toFin
  | .full => if h : p.toNat < 4 then Config.stepTableFull ⟨p.toNat, h⟩ else Config.patternOutsideTable p

/-- `ANGLE_PER_STEP_Q2 = (360 * 4) div POS_MOD` (R26). -/
def anglePerStepQ2 (m : Mode) : Nat := (360 * 4) / posMod m

/-- `ANGLE_Q2 = POS * ANGLE_PER_STEP_Q2` in 11 bits (R26, R117). -/
def angleQ2 (s : State) : BitVec 11 := BitVec.ofNat 11 (s.pos.toNat * anglePerStepQ2 s.mode)

/-- `CUR_PATTERN`, which is also `current_pattern()` (R26, R116). -/
def curPattern (s : State) : Pattern := patternFor s.mode s.phase

/-- Coil lead `i` of the `coil` port: bit `i` of the last emitted pattern (R22, R101, R208). -/
def coilLead (s : State) (i : Fin 4) : Bool := s.coilOut.getLsbD i.val

/-- The encoder line values at the `k`-th sample from here: those the host's command gives, and past them a free draw (R151). -/
def lineAt (s : State) (k : Nat) : EncSample := s.encLines[k]?.getD (Config.encSample (s.sampleCount + k))

end Sys2Proof.Machine
end

