-- ==== Sys2Proof/Machine/Ops.lean ====
section
/-! DEFINITION. The shared operations of the block. It raises no exception and has no trap to enter or to return from (R200,
R205), so what stands in that place is `raiseCmdErr` (Flags.lean) and the reset event. -/

namespace Sys2Proof.Machine

/-- Append one emission to the output event sequence (R9, R36). -/
def emit (e : Emission) (s : State) : State := { s with out := s.out ++ [e] }

/-- `emit NOTIFY(POS, ANGLE_Q2, MODE)` (R9). -/
def notify (s : State) : State := emit (.notify s.pos (angleQ2 s) s.mode) s

/-- `COIL_OUT <- pattern_for(MODE, PHASE)`, then `COIL`, then `NOTIFY` (R113, R134, D20). -/
def refreshCoil (s : State) : State :=
  let s := { s with coilOut := curPattern s }
  notify (emit (.coil s.coilOut) s)

/-- `phase_step(d)` (R112); None never occurs and changes nothing (R111). -/
def phaseStep (d : Direction) (s : State) : State :=
  match d with
  | .none => s
  | .forward =>
    { s with phase := BitVec.ofNat 3 ((s.phase.toNat + phaseMod s.mode - 1) % phaseMod s.mode)
             pos := BitVec.ofNat 7 ((s.pos.toNat + posMod s.mode - 1) % posMod s.mode) }
  | .backward =>
    { s with phase := BitVec.ofNat 3 ((s.phase.toNat + 1) % phaseMod s.mode)
             pos := BitVec.ofNat 7 ((s.pos.toNat + 1) % posMod s.mode) }

/-- `apply_step(d)` (R113). -/
def applyStep (d : Direction) (s : State) : State := refreshCoil (phaseStep d s)

/-- `apply_step(d)` `n` times in a row (R185). -/
def applySteps (d : Direction) : Nat → State → State
  | 0, s => s
  | n + 1, s => applySteps d n (applyStep d s)

/-- Full to Half (R132). -/
def rescaleToHalf (s : State) : State :=
  { s with phase := BitVec.ofNat 3 (s.phase.toNat * 2)
           pos := BitVec.ofNat 7 (s.pos.toNat * 2)
           mark := BitVec.ofNat 7 (s.mark.toNat * 2)
           mode := .half }

/-- Half to Full: odd values round down (R133). -/
def rescaleToFull (s : State) : State :=
  { s with phase := BitVec.ofNat 3 (s.phase.toNat / 2)
           pos := BitVec.ofNat 7 (s.pos.toNat / 2)
           mark := BitVec.ofNat 7 (s.mark.toNat / 2)
           mode := .full }

/-- `set_mode(target)`: nothing where the mode is the target already (R130), else the rescale and the emissions (R134). -/
def setMode (target : Mode) (s : State) : State :=
  match s.mode, target with
  | .full, .full => s
  | .half, .half => s
  | .full, .half => refreshCoil (rescaleToHalf s)
  | .half, .full => refreshCoil (rescaleToFull s)

/-- One draw of the encoder lines (R9, R151). -/
def sample (s : State) : EncSample × State :=
  (lineAt s 0, { s with encLines := s.encLines.tail, sampleCount := s.sampleCount + 1 })

/-- The debounced 2-bit state: per line the XOR of the three samples, packed `{b, a}` (R153, D18). -/
def debounce (x0 x1 x2 : EncSample) : BitVec 2 :=
  BitVec.ofBool (x0.b ^^ x1.b ^^ x2.b) ++ BitVec.ofBool (x0.a ^^ x1.a ^^ x2.a)

/-- The transition table (R154; 90_conflicts.md C2). -/
def quadDirection (prev cur : BitVec 2) : Direction :=
  if prev = 0b10#2 ∧ cur = 0b11#2 then .forward
  else if prev = 0b11#2 ∧ cur = 0b10#2 then .backward
  else .none

/-- The jog of a POLL: a phase step where there is a direction, nothing where there is none (R156). -/
def jog (d : Direction) (s : State) : State :=
  match d with
  | .none => s
  | .forward => applyStep .forward s
  | .backward => applyStep .backward s

/-- A POLL after its samples: the writes of R155, then the jog (R156). -/
def decoderUpdate (cur : BitVec 2) (s : State) : State :=
  let dir := quadDirection s.encPrev cur
  jog dir { s with encPrev := cur, lastPollDir := dir }

/-- The first branch of `compute_seek`: the distance without wrapping and its direction (R172). -/
def seekBranch (p m : Nat) : Nat × Direction :=
  if m ≤ p then (p - m, .forward) else (m - p, .backward)

/-- The complement of `compute_seek`: a distance over half a revolution goes the other way round (R172). The distance is an
integer (R10); it is negative only where an operand is outside its legal values. -/
def seekComplement (M : Nat) (job : Nat × Direction) : Int × Direction :=
  if M / 2 < job.1 then ((M : Int) - job.1, flipDir job.2) else ((job.1 : Int), job.2)

/-- `diff div 2` (R172); for a negative distance the spec defines no quotient (R10) and the value is free (log entry 8). -/
def seekHalve (diff : Int) : Nat := if 0 ≤ diff then diff.toNat / 2 else Config.seekRemOutOfRange diff

/-- `compute_seek(p, m, M)` (R172). -/
def computeSeek (p m M : Nat) : Nat × Direction :=
  let job := seekComplement M (seekBranch p m)
  (seekHalve job.1, job.2)

/-- The writes of a SEEK: the new job replaces any running one and discards its due step (R174, R175, D14). The restart of the
timer's period is in its hidden phase (R35), which is not represented. -/
def startSeek (job : Nat × Direction) (s : State) : State :=
  { s with seekRem := BitVec.ofNat 5 job.1
           seekDir := job.2
           stepDue := false
           timerArmed := armedFor job.1 }

/-- The first half of a tick: consume one unit and raise `STEP_DUE` (R182, R184). -/
def tickCount (s : State) : State :=
  if 0 < s.seekRem.toNat then { s with seekRem := BitVec.ofNat 5 (s.seekRem.toNat - 1), stepDue := true } else s

/-- The second half of a tick: stop the timer where the count is 0 (R182, D15). -/
def tickDisarm (s : State) : State :=
  if s.seekRem.toNat = 0 then { s with timerArmed := false } else s

/-- TICK (R182). -/
def tick (s : State) : State := tickDisarm (tickCount s)

/-- A tick event: possible only while the timer is armed (R183). -/
def tickEvent (s : State) : Host.Outcome State Fault Refusal :=
  if s.timerArmed then .next (tick s) else .refused .tickNotAdmitted

/-- What a SERVICE does where a step is due (R185). -/
def serviceDue (s : State) : State :=
  let s := toggleHilite (applySteps s.seekDir seekStepsPerTick s)
  clearStepDue (emit (.hilite s.hilite) s)

/-- The reset event: every register at its reset value, nothing emitted (R230, R231). The sequence already emitted stays (R36),
and so do the inputs still to come and the sample count (log entry 12). -/
def resetEvent (s : State) : State :=
  { State.reset with out := s.out, events := s.events, encLines := s.encLines, sampleCount := s.sampleCount }

/-- The encoder lines take the values the host's command gives (R13). -/
def driveLines (lines : List EncSample) (s : State) : State := { s with encLines := lines }

/-- The next event and the state without it (R57). With no event of the host left, the timer is the only agent that can act:
while it is armed a tick occurs (R183), else the state does not change (R214) (log entry 3). -/
def takeEvent (s : State) : Option (Event × State) :=
  match s.events with
  | e :: rest => some (e, { s with events := rest })
  | [] => if s.timerArmed then some (.tick, s) else Option.none

/-- A field of a status word: `v` from bit `lo` up (R8, R53). -/
def field {w : Nat} (v : BitVec w) (lo : Nat) : StatusWord := (v.setWidth 16) <<< lo

/-- `RegRead(addr)`: the status register map, reserved addresses read 0 (R52, R53, R54). A function of the state: a read has no
effect. -/
def regRead (addr : BitVec 4) (s : State) : StatusWord :=
  match addr.toNat with
  | 0x0 => field (modeBit s.mode) 0 ||| field (BitVec.ofBool s.timerArmed) 1 ||| field (BitVec.ofBool s.stepDue) 2
      ||| field (BitVec.ofBool s.hilite) 3 ||| field (BitVec.ofBool s.cmdErr) 4
  | 0x1 => field s.phase 0
  | 0x2 => field s.pos 0
  | 0x3 => field s.mark 0
  | 0x4 => field s.seekRem 0 ||| field (dirBits s.seekDir) 8
  | 0x5 => field s.encPrev 0 ||| field (dirBits s.lastPollDir) 8
  | 0x6 => field s.coilOut 0 ||| field (curPattern s) 8
  | 0x7 => field (angleQ2 s) 0
  | 0x8 => field (BitVec.ofNat 5 (anglePerStepQ2 s.mode)) 0
  | 0x9 => field (BitVec.ofNat 7 (posMod s.mode)) 0 ||| field (BitVec.ofNat 4 (phaseMod s.mode)) 8
  | _ => 0

end Sys2Proof.Machine
end

