-- ==== Sys2Proof/Machine/ModeControl.lean ====
section
/-! DEFINITION. The Mode Controller's commands SET_FULL, SET_HALF and MODE_TOGGLE (42_mode_controller.md). -/

namespace Sys2Proof.Machine

/-- SET_FULL (R135). -/
def execSetFull (s : State) : Host.Outcome State Fault Refusal := .next (setMode .full s)

/-- SET_HALF (R136). -/
def execSetHalf (s : State) : Host.Outcome State Fault Refusal := .next (setMode .half s)

/-- The mode that is not `m` (R137). -/
def otherMode : Mode → Mode
  | .full => .half
  | .half => .full

/-- MODE_TOGGLE (R137). -/
def execModeToggle (s : State) : Host.Outcome State Fault Refusal := .next (setMode (otherMode s.mode) s)

end Sys2Proof.Machine
end

