-- ==== Sys2Proof/Machine/Quadrature.lean ====
section
/-! DEFINITION. The Quadrature Decoder's command POLL (43_quadrature_decoder.md). -/

namespace Sys2Proof.Machine

/-- POLL: three samples in order, the settling delays between them have no effect (R152, R242); then the debounced state
decides (R157). -/
def execPoll (s : State) : Host.Outcome State Fault Refusal :=
  let x0 := sample s
  let x1 := sample x0.2
  let x2 := sample x1.2
  .next (decoderUpdate (debounce x0.1 x1.1 x2.1) x2.2)

end Sys2Proof.Machine
end

