-- ==== Sys2Proof/Machine/Seek.lean ====
section
/-! DEFINITION. The commands MARK, SEEK, SERVICE and NOP (44_seek_scheduler.md). The tick is in Ops.lean: it is no command. -/

namespace Sys2Proof.Machine

/-- NOP (R188). -/
def execNop (s : State) : Host.Outcome State Fault Refusal := .next s

/-- MARK (R171). -/
def execMark (s : State) : Host.Outcome State Fault Refusal := .next (notify { s with mark := s.pos })

/-- SEEK (R174). -/
def execSeek (s : State) : Host.Outcome State Fault Refusal :=
  .next (startSeek (computeSeek s.pos.toNat s.mark.toNat (posMod s.mode)) s)

/-- SERVICE (R185): no change where no step is due (D35). -/
def execService (s : State) : Host.Outcome State Fault Refusal := .next (if s.stepDue then serviceDue s else s)

end Sys2Proof.Machine
end

