-- ==== Sys2Proof/Machine/Sequencer.lean ====
section
/-! DEFINITION. The Phase Sequencer's commands STEP_FWD and STEP_BWD (41_phase_sequencer.md). -/

namespace Sys2Proof.Machine

/-- STEP_FWD (R114). -/
def execStepFwd (s : State) : Host.Outcome State Fault Refusal := .next (applyStep .forward s)

/-- STEP_BWD (R115). -/
def execStepBwd (s : State) : Host.Outcome State Fault Refusal := .next (applyStep .backward s)

end Sys2Proof.Machine
end

