-- ==== Sys2Proof/Machine/Dispatch.lean ====
section
/-! DEFINITION. The one dispatch from a command to its meaning. -/

namespace Sys2Proof.Machine

def exec (i : Instr) (s : State) : Host.Outcome State Fault Refusal :=
  match i with
  | .nop => Sys2Proof.Machine.execNop s
  | .stepFwd => Sys2Proof.Machine.execStepFwd s
  | .stepBwd => Sys2Proof.Machine.execStepBwd s
  | .setFull => Sys2Proof.Machine.execSetFull s
  | .setHalf => Sys2Proof.Machine.execSetHalf s
  | .modeToggle => Sys2Proof.Machine.execModeToggle s
  | .mark => Sys2Proof.Machine.execMark s
  | .seek => Sys2Proof.Machine.execSeek s
  | .poll => Sys2Proof.Machine.execPoll s
  | .service => Sys2Proof.Machine.execService s

end Sys2Proof.Machine
end

