-- ==== Sys2Proof/Machine/Events.lean ====
section
/-! DEFINITION. What each event does (R57): a command word, a tick, a reset. -/

namespace Sys2Proof.Machine

/-- A command event: a command has its meaning, a reserved code raises `CMD_ERR` and the block goes on (R75, R202, log entry 6). -/
def commandEvent (w : CmdWord) (lines : List EncSample) (s : State) : Host.Outcome State Fault Refusal :=
  match decode w with
  | .ok i => exec i (driveLines lines s)
  | .error _ => .next (raiseCmdErr s)

/-- One event, executed on the state without it (R57). -/
def eventStep (e : Event) (s : State) : Host.Outcome State Fault Refusal :=
  match e with
  | .command w lines => commandEvent w lines s
  | .tick => tickEvent s
  | .reset => .next (resetEvent s)

end Sys2Proof.Machine
end

