-- ==== Sys2Proof/Machine/Step.lean ====
section
/-! DEFINITION. One step, and where the host's next command stands. -/

namespace Sys2Proof.Machine

/-- One step: the next event, executed atomically (R57). -/
def step (s : State) : Host.Outcome State Fault Refusal :=
  match takeEvent s with
  | Option.none => .next s
  | some (e, s') => eventStep e s'

/-- `s` with the command word `w` presented as its next event, with no encoder values given (log entry 13). A number of more
than four bits is no command word and is not presented; every table row has one word, so `nbits` adds nothing. -/
def State.withFetchWord (s : State) (_nbits w : Nat) : State :=
  if w < 16 then { s with events := .command (BitVec.ofNat 4 w) [] :: s.events } else s

end Sys2Proof.Machine
end

