-- ==== Sys2Proof/Machine/Program.lean ====
section
/-! DEFINITION. The program notation (R77, R78): mnemonics, lines, the events a program stands for, and its encoding. A
program stands outside the block (R21, R77): these are the host's and the test bench's side of the interface. -/

namespace Sys2Proof

/-- The mnemonic of a command (R72). -/
def mnemonic : Instr → List Char
  | .nop => "NOP".toList
  | .stepFwd => "STEP_FWD".toList
  | .stepBwd => "STEP_BWD".toList
  | .setFull => "SET_FULL".toList
  | .setHalf => "SET_HALF".toList
  | .modeToggle => "MODE_TOGGLE".toList
  | .mark => "MARK".toList
  | .seek => "SEEK".toList
  | .poll => "POLL".toList
  | .service => "SERVICE".toList

/-- The commands in the order of the opcode map (R72). -/
def allInstrs : List Instr :=
  [.nop, .stepFwd, .stepBwd, .setFull, .setHalf, .modeToggle, .mark, .seek, .poll, .service]

/-- The command a mnemonic stands for: case-sensitive, one command each (R77, R78). -/
def ofMnemonic (cs : List Char) : Option Instr := allInstrs.find? fun i => mnemonic i == cs

/-- Cut a line into words at spaces, with the brackets of a sample annotation as words of their own; `acc` is the word so far,
last character first. -/
def lineWords (acc : List Char) : List Char → List (List Char)
  | [] => if acc.isEmpty then [] else [acc.reverse]
  | c :: cs =>
    let done := if acc.isEmpty then [] else [acc.reverse]
    if c = ' ' then done ++ lineWords [] cs
    else if c = '[' ∨ c = ']' then done ++ [c] :: lineWords [] cs
    else lineWords (c :: acc) cs

/-- A binary digit. -/
def readBit (c : Char) : Option Bool :=
  if c = '0' then some false else if c = '1' then some true else none

/-- `aXbX`: two binary digits, `enc_a` then `enc_b` (R77). -/
def readSample : List Char → Option EncSample
  | [x, y] => do
    let a ← readBit x
    let b ← readBit y
    return ⟨a, b⟩
  | _ => none

/-- A decimal number, `acc` so far. -/
def readDecimal (acc : Nat) : List Char → Option Nat
  | [] => some acc
  | c :: cs => if c.isDigit then readDecimal (acc * 10 + (c.toNat - '0'.toNat)) cs else none

/-- What may stand at the end of a command line: nothing, or `x<n>` (R77). -/
def readCount : List (List Char) → Option Nat
  | [] => some 1
  | [word] =>
    match word with
    | 'x' :: d :: ds => readDecimal 0 (d :: ds)
    | _ => none
  | _ => none

/-- The words of a line (R77). -/
def readWords : List (List Char) → Option Line
  | [] => none
  | w :: rest =>
    if w = "@tick".toList then (if rest.isEmpty then some .tick else none)
    else if w = "@reset".toList then (if rest.isEmpty then some .reset else none)
    else do
      let i ← ofMnemonic w
      match rest with
      | ['['] :: x0 :: x1 :: x2 :: [']'] :: more =>
        let s0 ← readSample x0
        let s1 ← readSample x1
        let s2 ← readSample x2
        let n ← readCount more
        if i = .poll then return .command i [s0, s1, s2] n else none
      | _ =>
        let n ← readCount rest
        return .command i [] n

/-- One line of text; `;` starts a comment (R77). -/
def readLine (text : List Char) : Option Line := readWords (lineWords [] (text.takeWhile (· ≠ ';')))

namespace Machine

/-- The events a line stands for: a command line written `n` times in a row, or one stimulus event (R77). -/
def lineEvents : Line → List Event
  | .command i lines n => List.replicate n (.command (encode i) lines)
  | .tick => [.tick]
  | .reset => [.reset]

/-- The word a command event presents; a stimulus event has none (R77). -/
def eventWord : Event → Option CmdWord
  | .command w _ => some w
  | .tick => none
  | .reset => none

/-- The events of a program, in order. -/
def programEvents (p : List Line) : List Event := p.flatMap lineEvents

end Machine

/-- The commands of a line, stimulus lines have none. -/
def lineInstrs : Line → List Instr
  | .command i _ n => List.replicate n i
  | .tick => []
  | .reset => []

/-- The commands of a program, in order. -/
def programInstrs (p : List Line) : List Instr := p.flatMap lineInstrs

/-- The encoding of a program: the 4-bit codes of its command lines in order (R77). -/
def programWords (p : List Line) : List CmdWord := (programInstrs p).map encode

/-- Decode a sequence of command words, stopping at the first that is no command. -/
def decodeWords : List CmdWord → Except DecodeReject (List Instr)
  | [] => .ok []
  | w :: ws =>
    match decode w with
    | .error r => .error r
    | .ok i =>
      match decodeWords ws with
      | .error r => .error r
      | .ok is => .ok (i :: is)

namespace Machine

/-- The host will present the program's events after those already there (R57, log entry 13). -/
def State.present (p : List Line) (s : State) : State := { s with events := s.events ++ programEvents p }

end Machine

end Sys2Proof
end

