-- ==== Sys2Proof/Safety.lean ====
section
/-! DEFINITION. What the spec says of every state reachable from reset (10_state.md §5), and when a seek is complete. -/

namespace Sys2Proof.Machine

/-- Range invariant (R27). -/
@[simp] abbrev RangesOk (s : State) : Prop :=
  s.phase.toNat < phaseMod s.mode ∧ s.pos.toNat < posMod s.mode ∧ s.mark.toNat < posMod s.mode

/-- Phase-position coherence (R28). -/
@[simp] abbrev PhaseCoherent (s : State) : Prop := s.phase.toNat = s.pos.toNat % phaseMod s.mode

/-- Seek-timer coherence (R29). -/
@[simp] abbrev TimerCoherent (s : State) : Prop := s.timerArmed = true ↔ 0 < s.seekRem.toNat

/-- Seek bound (R30). -/
@[simp] abbrev SeekBounded (s : State) : Prop := s.seekRem.toNat ≤ 24

/-- Direction validity (R31), for the due step and for the ticks still to come. -/
@[simp] abbrev DirectionValid (s : State) : Prop := s.stepDue = true ∨ 0 < s.seekRem.toNat → s.seekDir ≠ .none

/-- Coil coherence (R32): the coils hold the current pattern, or nothing has been emitted since reset, and then the mode, the
phase and the coils still have their reset values. -/
@[simp] abbrev CoilCoherent (s : State) : Prop :=
  s.coilOut = curPattern s ∨ (s.coilOut = 0 ∧ s.mode = .full ∧ s.phase = 0)

/-- The invariants of R27 to R32. -/
abbrev Invariant (s : State) : Prop :=
  RangesOk s ∧ PhaseCoherent s ∧ TimerCoherent s ∧ SeekBounded s ∧ DirectionValid s ∧ CoilCoherent s

/-- A seek is complete (R187). -/
@[simp] abbrev SeekComplete (s : State) : Prop := s.seekRem = 0 ∧ s.timerArmed = false ∧ s.stepDue = false

/-- No reserved code has been presented since reset: the premise R202 has every claim about the original take. -/
abbrev NoCommandError (s : State) : Prop := s.cmdErr = false

/-- How far one phase step moves `PHASE` and `POS`: Forward decrements, Backward increments (R110). -/
def stepDelta : Direction → Int
  | .none => 0
  | .forward => -1
  | .backward => 1

/-- `PHASE` and `POS` moved by `delta`, each wrapping at its modulus of the mode, which stays (R110, R112). -/
abbrev MovedBy (delta : Int) (s t : State) : Prop :=
  (t.phase.toNat : Int) = (s.phase.toNat + delta) % phaseMod s.mode ∧
  (t.pos.toNat : Int) = (s.pos.toNat + delta) % posMod s.mode ∧ t.mode = s.mode

/-- The two emissions that announce a phase step or a mode switch ending in `t` (R113, R134). -/
abbrev announced (t : State) : List Emission := [.coil (curPattern t), .notify t.pos (angleQ2 t) t.mode]

/-- The seek job and its signals are unchanged. -/
@[simp] abbrev SameSeek (s t : State) : Prop :=
  t.seekRem = s.seekRem ∧ t.seekDir = s.seekDir ∧ t.stepDue = s.stepDue ∧ t.timerArmed = s.timerArmed

/-- The Quadrature Decoder's registers are unchanged. -/
@[simp] abbrev SameDecoder (s t : State) : Prop := t.encPrev = s.encPrev ∧ t.lastPollDir = s.lastPollDir

/-- `HILITE` and `CMD_ERR` are unchanged. -/
@[simp] abbrev SameFlags (s t : State) : Prop := t.hilite = s.hilite ∧ t.cmdErr = s.cmdErr

/-- Mode, phase, position, coils and emissions are unchanged. -/
@[simp] abbrev SameMotor (s t : State) : Prop :=
  t.mode = s.mode ∧ t.phase = s.phase ∧ t.pos = s.pos ∧ t.coilOut = s.coilOut ∧ t.out = s.out

/-- The model's own inputs and its sample counter are unchanged. -/
@[simp] abbrev SameInputs (s t : State) : Prop :=
  t.events = s.events ∧ t.encLines = s.encLines ∧ t.sampleCount = s.sampleCount

/-- An event that neither starts a seek nor resets nor is itself a tick. -/
def leavesSeekRunning : Event → Bool
  | .command w _ =>
    match decode w with
    | .ok .seek => false
    | .ok _ => true
    | .error _ => true
  | .tick => false
  | .reset => false

/-- How many emissions of each kind a sequence holds (R187). -/
def emissionCounts : List Emission → Nat × Nat × Nat
  | [] => (0, 0, 0)
  | .coil _ :: es => ((emissionCounts es).1 + 1, (emissionCounts es).2.1, (emissionCounts es).2.2)
  | .notify _ _ _ :: es => ((emissionCounts es).1, (emissionCounts es).2.1 + 1, (emissionCounts es).2.2)
  | .hilite _ :: es => ((emissionCounts es).1, (emissionCounts es).2.1, (emissionCounts es).2.2 + 1)

/-- The serviced seek of R187: the next `2 * n` events are a tick and then a SERVICE, `n` times, and `rest` follows. -/
def servicedTicks : Nat → List Event → List Event
  | 0, rest => rest
  | n + 1, rest => .tick :: .command (encode .service) [] :: servicedTicks n rest

end Sys2Proof.Machine
end

