-- ==== Sys2Proof/Certificates/Slice0/Obligations.lean ====
section
/-! DEFINITION. The statements for the provers. Titles, rules and quotes are in OBLIGATIONS.json. -/

open Sys2Proof Sys2Proof.Machine

/-! ### Encoding -/

/-- R72: the ten words of the opcode map, written out from the table. -/
def Obligations.CommandWordsDecodeAsTheOpcodeMap : Prop :=
  decode 0b0000#4 = .ok .nop ∧ decode 0b0001#4 = .ok .stepFwd ∧ decode 0b0010#4 = .ok .stepBwd ∧
  decode 0b0011#4 = .ok .setFull ∧ decode 0b0100#4 = .ok .setHalf ∧ decode 0b0101#4 = .ok .modeToggle ∧
  decode 0b0110#4 = .ok .mark ∧ decode 0b0111#4 = .ok .seek ∧ decode 0b1000#4 = .ok .poll ∧
  decode 0b1001#4 = .ok .service ∧ ∀ w : CmdWord, 10 ≤ w.toNat → decode w = .error (.reservedCode w)

/-- R75: ten words are commands; a reserved one sets `CMD_ERR`, changes nothing else, and the block goes on. -/
def Obligations.CodesAreCommandsOrReserved : Prop :=
  (∀ w : CmdWord, w.toNat < 10 → ∃ i, decode w = .ok i) ∧
  (∀ (w : CmdWord) (lines : List EncSample) (rest : List Event) (s : State),
    10 ≤ w.toNat → s.events = .command w lines :: rest →
    decode w = .error (.reservedCode w) ∧ step s = .next { s with events := rest, cmdErr := true })

/-- Decoding and encoding agree, on every command, every word, and every program's sequence of codes. -/
def Obligations.EncodingsRoundTrip : Prop :=
  (∀ i : Instr, decode (encode i) = .ok i) ∧
  (∀ (w : CmdWord) (i : Instr), decode w = .ok i → w = encode i) ∧
  (∀ p : List Line, decodeWords (programWords p) = .ok (programInstrs p) ∧
    (programEvents p).filterMap eventWord = programWords p)

/-! ### Steps and events -/

/-- A step runs the command the decoder reads from the next event's word, on the state without that event and with the
encoder lines driven as the event gives them. -/
def Obligations.StepRunsTheDecodedCommand : Prop :=
  ∀ (s : State) (w : CmdWord) (lines : List EncSample) (rest : List Event) (i : Instr),
    s.events = .command w lines :: rest → decode w = .ok i →
    step s = exec i { s with events := rest, encLines := lines }

/-- R200: no step ends in an exception, and every command completes. -/
def Obligations.CommandsNeverTrapAndAlwaysComplete : Prop :=
  (∀ (s : State) (r : Fault), step s ≠ .fault r) ∧
  (∀ (i : Instr) (s : State), ∃ t, exec i s = .next t) ∧
  (∀ (s : State) (w : CmdWord) (lines : List EncSample) (rest : List Event),
    s.events = .command w lines :: rest → ∃ t, step s = .next t)

/-- With no event and no seek running the state does not change. -/
def Obligations.IdleBlockKeepsItsState : Prop :=
  ∀ s : State, s.events = [] → s.timerArmed = false → step s = .next s

/-- R182: what a tick does and that it touches nothing else; it is possible only while the timer is armed. -/
def Obligations.TickConsumesOneUnit : Prop :=
  ∀ (s : State) (rest : List Event), s.events = .tick :: rest →
    (s.timerArmed = false → ∀ t, step s ≠ .next t) ∧
    (s.timerArmed = true → ∃ t, step s = .next t ∧
      t.seekRem.toNat = s.seekRem.toNat - 1 ∧
      (0 < s.seekRem.toNat → t.stepDue = true) ∧ (s.seekRem.toNat = 0 → t.stepDue = s.stepDue) ∧
      (t.seekRem.toNat = 0 → t.timerArmed = false) ∧ (0 < t.seekRem.toNat → t.timerArmed = true) ∧
      t.seekDir = s.seekDir ∧ t.mark = s.mark ∧ SameMotor s t ∧ SameDecoder s t ∧ SameFlags s t ∧
      t.events = rest ∧ t.encLines = s.encLines ∧ t.sampleCount = s.sampleCount)

/-- The model's choice (log entry 2): a tick presented while the timer is not armed, an event 44_seek_scheduler.md §4 says is
impossible, is refused by name. -/
def Obligations.TickWhileDisarmedIsRefused : Prop :=
  ∀ (s : State) (rest : List Event), s.events = .tick :: rest → s.timerArmed = false →
    step s = .refused .tickNotAdmitted

/-- The model's choice (log entry 3), after the liveness sentence of 44_seek_scheduler.md §4: with no event of the host left and
the timer armed, the step is a tick. -/
def Obligations.IdleHostLetsTheTimerTick : Prop :=
  ∀ s : State, s.events = [] → s.timerArmed = true →
    step s = step { s with events := [.tick] } ∧ ∃ t, step s = .next t ∧ t.seekRem.toNat = s.seekRem.toNat - 1

/-- R230, R231: a reset event puts every register into its reset value, emits nothing, and leaves no tick possible. -/
def Obligations.ResetEventSetsResetValues : Prop :=
  ∀ (s : State) (rest : List Event), s.events = .reset :: rest → ∃ t, step s = .next t ∧
    t.mode = .full ∧ t.phase = 0 ∧ t.pos = 0 ∧ t.mark = 0 ∧ t.seekRem = 0 ∧ t.seekDir = .none ∧
    t.stepDue = false ∧ t.timerArmed = false ∧ t.encPrev = 0 ∧ t.lastPollDir = .none ∧ t.coilOut = 0 ∧
    t.hilite = false ∧ t.cmdErr = false ∧ t.out = s.out ∧ t.events = rest ∧
    (∀ (later : List Event) (u : State), step { t with events := .tick :: later } ≠ .next u)

/-- The derived values right after power-up. -/
def Obligations.PowerUpDerivedValues : Prop :=
  phaseMod State.reset.mode = 4 ∧ posMod State.reset.mode = 48 ∧ angleQ2 State.reset = 0 ∧
  anglePerStepQ2 State.reset.mode = 30 ∧ curPattern State.reset = Config.stepTableFull 0 ∧
  regRead 0x0 State.reset = 0x0000#16 ∧ regRead 0x8 State.reset = 0x001E#16 ∧ regRead 0x9 State.reset = 0x0430#16

/-- From reset, STEP_FWD then STEP_BWD leaves the coils at the Full table's first entry; before, the coils are 0. -/
def Obligations.FirstStepsEnergiseTheCoils : Prop :=
  State.reset.coilOut = 0 ∧
  ∃ t u, exec .stepFwd State.reset = .next t ∧ exec .stepBwd t = .next u ∧
    t.phase = 3 ∧ t.pos = 47 ∧ t.coilOut = Config.stepTableFull 3 ∧
    u.phase = 0 ∧ u.pos = 0 ∧ u.coilOut = Config.stepTableFull 0

/-! ### Invariants and rules of the whole machine -/

/-- The reset state satisfies the invariants of 10_state.md §5. -/
def Obligations.ResetStateSatisfiesInvariant : Prop := Invariant State.reset

/-- Every step keeps the invariants of 10_state.md §5. -/
def Obligations.EveryStepKeepsInvariant : Prop :=
  ∀ s t : State, Invariant s → step s = .next t → Invariant t

/-- No step reorders or drops an emission, a reset among them; a tick and a reset emit nothing. -/
def Obligations.OutputSequenceOnlyGrows : Prop :=
  ∀ s t : State, step s = .next t → s.out <+: t.out ∧
    (∀ rest, s.events = .tick :: rest ∨ s.events = .reset :: rest ∨ s.events = [] → t.out = s.out)

/-- The display is notified of the position and mode a command leaves wherever it changes one of them or the mark, and the
coil sink is given the pattern it leaves wherever it changes phase, mode or coils. -/
def Obligations.ChangesAreAnnounced : Prop :=
  ∀ (i : Instr) (s t : State), exec i s = .next t → ∃ new, t.out = s.out ++ new ∧
    (t.pos ≠ s.pos ∨ t.mode ≠ s.mode ∨ t.mark ≠ s.mark → .notify t.pos (angleQ2 t) t.mode ∈ new) ∧
    (t.phase ≠ s.phase ∨ t.mode ≠ s.mode ∨ t.coilOut ≠ s.coilOut → .coil t.coilOut ∈ new ∧ t.coilOut = curPattern t)

/-- No rule reads anything back from the emissions. -/
def Obligations.DisplayIsAPureObserver : Prop :=
  ∀ (s : State) (before : List Emission),
    step { s with out := before ++ s.out } =
      match step s with
      | .next t => .next { t with out := before ++ t.out }
      | .fault r => .fault r
      | .refused r => .refused r

/-- Only POLL reads the encoder lines. -/
def Obligations.OnlyPollReadsTheEncoder : Prop :=
  ∀ (i : Instr) (s : State) (lines : List EncSample) (n : Nat), i ≠ .poll →
    ∃ t, exec i s = .next t ∧ t.encLines = s.encLines ∧ t.sampleCount = s.sampleCount ∧
      exec i { s with encLines := lines, sampleCount := n } = .next { t with encLines := lines, sampleCount := n }

/-- Which commands may change which register. -/
def Obligations.RegistersChangeOnlyByTheirCommands : Prop :=
  ∀ (i : Instr) (s t : State), exec i s = .next t →
    (t.mode ≠ s.mode → i ∈ [Instr.setFull, .setHalf, .modeToggle]) ∧
    (t.phase ≠ s.phase ∨ t.pos ≠ s.pos ∨ t.coilOut ≠ s.coilOut →
      i ∈ [Instr.stepFwd, .stepBwd, .setFull, .setHalf, .modeToggle, .poll, .service]) ∧
    (t.mark ≠ s.mark → i ∈ [Instr.mark, .setFull, .setHalf, .modeToggle]) ∧
    (t.seekRem ≠ s.seekRem ∨ t.seekDir ≠ s.seekDir ∨ t.timerArmed ≠ s.timerArmed → i = .seek) ∧
    (t.stepDue ≠ s.stepDue → i ∈ [Instr.seek, .service]) ∧
    (t.encPrev ≠ s.encPrev ∨ t.lastPollDir ≠ s.lastPollDir → i = .poll) ∧
    (t.hilite ≠ s.hilite → i = .service) ∧ t.cmdErr = s.cmdErr ∧ t.events = s.events

/-- `CMD_ERR` is set by a reserved code alone and cleared by a reset alone. -/
def Obligations.CommandErrorIsSticky : Prop :=
  ∀ s t : State, step s = .next t →
    (s.cmdErr = false → t.cmdErr = true → ∃ w lines rest, s.events = .command w lines :: rest ∧ 10 ≤ w.toNat) ∧
    (s.cmdErr = true → t.cmdErr = false → ∃ rest, s.events = .reset :: rest)

/-- The timer is armed by SEEK alone and disarmed by a tick, a SEEK or a reset alone. -/
def Obligations.TimerIsArmedBySeekAlone : Prop :=
  ∀ s t : State, step s = .next t →
    (s.timerArmed = false → t.timerArmed = true → ∃ lines rest, s.events = .command (encode .seek) lines :: rest) ∧
    (s.timerArmed = true → t.timerArmed = false → s.events = [] ∨ ∃ e rest, s.events = e :: rest ∧
      (e = .tick ∨ e = .reset ∨ ∃ lines, e = .command (encode .seek) lines))

/-- `SEEK_DIR` is None only until the first SEEK after a reset. -/
def Obligations.SeekDirectionStaysKnown : Prop :=
  (∀ s : State, ∃ t, exec .seek s = .next t ∧ t.seekDir ≠ .none) ∧
  (∀ s t : State, step s = .next t → s.seekDir ≠ .none → t.seekDir = .none → ∃ rest, s.events = .reset :: rest)

/-- A POLL and a tick touch disjoint state: either order ends in the same state. -/
def Obligations.PollAndTickCommute : Prop :=
  ∀ s : State, s.timerArmed = true → ∃ t u v,
    exec .poll s = .next t ∧ tickEvent t = .next v ∧ tickEvent s = .next u ∧ exec .poll u = .next v

/-! ### Phase Sequencer -/

/-- R112 to R115: STEP_FWD and STEP_BWD move phase and position by one, wrap, drive the coils and announce it; every other
register stays. -/
def Obligations.StepsMoveOnePhase : Prop :=
  encode .stepFwd = 0b0001#4 ∧ encode .stepBwd = 0b0010#4 ∧
  ∀ (s : State) (i : Instr) (d : Direction), (i = .stepFwd ∧ d = .forward ∨ i = .stepBwd ∧ d = .backward) →
    ∃ t, exec i s = .next t ∧ MovedBy (stepDelta d) s t ∧ t.coilOut = patternFor t.mode t.phase ∧
      t.out = s.out ++ announced t ∧
      t.mark = s.mark ∧ SameSeek s t ∧ SameDecoder s t ∧ SameFlags s t ∧ SameInputs s t

/-- R101: the entries `pattern_for` answers, and the coil leads they drive. -/
def Obligations.PatternsComeFromTheStepTables : Prop :=
  (∀ (p : BitVec 3) (h : p.toNat < 4), patternFor .full p = Config.stepTableFull ⟨p.toNat, h⟩) ∧
  (∀ p : BitVec 3, patternFor .half p = Config.stepTableHalf p.toFin) ∧
  (∀ (s : State) (i : Instr) (lead : Fin 4), i = .stepFwd ∨ i = .stepBwd →
    ∃ t, exec i s = .next t ∧ coilLead t lead = (patternFor t.mode t.phase).getLsbD lead.val)

/-- A step and the opposite step restore phase, position and pattern. -/
def Obligations.OppositeStepsCancel : Prop :=
  ∀ (s : State) (i j : Instr), RangesOk s → (i = .stepFwd ∧ j = .stepBwd ∨ i = .stepBwd ∧ j = .stepFwd) →
    ∃ t u, exec i s = .next t ∧ exec j t = .next u ∧
      u.phase = s.phase ∧ u.pos = s.pos ∧ curPattern u = curPattern s

/-- `POS_MOD` steps in one direction restore phase and position, and `PHASE_MOD` steps restore the phase. -/
def Obligations.FullRevolutionCloses : Prop :=
  ∀ (s : State) (i : Instr) (lines : List EncSample) (rest : List Event) (n : Nat),
    RangesOk s → i = .stepFwd ∨ i = .stepBwd →
    s.events = List.replicate n (.command (encode i) lines) ++ rest →
    ∃ t, core.run n s = .next t ∧ t.events = rest ∧
      (n = posMod s.mode → t.phase = s.phase ∧ t.pos = s.pos) ∧ (n = phaseMod s.mode → t.phase = s.phase)

/-- R26: the derived values, where the registers are legal. -/
def Obligations.DerivedValuesFollowTheRegisters : Prop :=
  ∀ s : State, RangesOk s →
    (s.mode = .full → phaseMod s.mode = 4 ∧ posMod s.mode = 48 ∧ anglePerStepQ2 s.mode = 30) ∧
    (s.mode = .half → phaseMod s.mode = 8 ∧ posMod s.mode = 96 ∧ anglePerStepQ2 s.mode = 15) ∧
    anglePerStepQ2 s.mode = (360 * 4) / posMod s.mode ∧
    (angleQ2 s).toNat = s.pos.toNat * anglePerStepQ2 s.mode ∧ curPattern s = patternFor s.mode s.phase ∧
    (angleQ2 s).toNat * posMod s.mode = s.pos.toNat * (360 * 4) ∧ (angleQ2 s).toNat < 360 * 4

/-! ### Mode Controller -/

/-- R133, R135: SET_FULL, a no-op in Full mode, else the halving with odd values rounded down. -/
def Obligations.SetFullHalves : Prop :=
  encode .setFull = 0b0011#4 ∧
  ∀ s : State,
    (s.mode = .full → exec .setFull s = .next s) ∧
    (s.mode = .half → ∃ t, exec .setFull s = .next t ∧ t.mode = .full ∧
      t.phase.toNat = s.phase.toNat / 2 ∧ t.pos.toNat = s.pos.toNat / 2 ∧ t.mark.toNat = s.mark.toNat / 2 ∧
      t.coilOut = patternFor .full t.phase ∧ t.out = s.out ++ announced t ∧
      SameSeek s t ∧ SameDecoder s t ∧ SameFlags s t ∧ SameInputs s t)

/-- R132, R136: SET_HALF, a no-op in Half mode, else the doubling. -/
def Obligations.SetHalfDoubles : Prop :=
  encode .setHalf = 0b0100#4 ∧
  ∀ s : State, RangesOk s →
    (s.mode = .half → exec .setHalf s = .next s) ∧
    (s.mode = .full → ∃ t, exec .setHalf s = .next t ∧ t.mode = .half ∧
      t.phase.toNat = s.phase.toNat * 2 ∧ t.pos.toNat = s.pos.toNat * 2 ∧ t.mark.toNat = s.mark.toNat * 2 ∧
      t.coilOut = patternFor .half t.phase ∧ t.out = s.out ++ announced t ∧ RangesOk t ∧
      SameSeek s t ∧ SameDecoder s t ∧ SameFlags s t ∧ SameInputs s t)

/-- R134, R137: MODE_TOGGLE always switches and announces the new mode. -/
def Obligations.ModeToggleAlwaysSwitches : Prop :=
  encode .modeToggle = 0b0101#4 ∧
  ∀ s : State, RangesOk s → ∃ t, exec .modeToggle s = .next t ∧
    (s.mode = .full → t.mode = .half ∧
      t.phase.toNat = s.phase.toNat * 2 ∧ t.pos.toNat = s.pos.toNat * 2 ∧ t.mark.toNat = s.mark.toNat * 2) ∧
    (s.mode = .half → t.mode = .full ∧
      t.phase.toNat = s.phase.toNat / 2 ∧ t.pos.toNat = s.pos.toNat / 2 ∧ t.mark.toNat = s.mark.toNat / 2) ∧
    t.coilOut = patternFor t.mode t.phase ∧ t.out = s.out ++ announced t ∧
    SameSeek s t ∧ SameDecoder s t ∧ SameFlags s t ∧ SameInputs s t

/-- Two switches from Full restore everything they rescale; from Half they do so if and only if each value was even. A switch to
Half keeps the angle. -/
def Obligations.ModeSwitchRoundTrips : Prop :=
  ∀ s : State, RangesOk s → ∃ t u, exec .modeToggle s = .next t ∧ exec .modeToggle t = .next u ∧ u.mode = s.mode ∧
    (s.mode = .full → u.phase = s.phase ∧ u.pos = s.pos ∧ u.mark = s.mark ∧ angleQ2 t = angleQ2 s) ∧
    (s.mode = .half → ((u.phase = s.phase ∧ u.pos = s.pos ∧ u.mark = s.mark) ↔
      s.phase.toNat % 2 = 0 ∧ s.pos.toNat % 2 = 0 ∧ s.mark.toNat % 2 = 0))

/-- A switch from Half to Full loses 15 quarter degrees from an odd position and none from an even one. -/
def Obligations.HalfToFullLosesAHalfStep : Prop :=
  ∀ s : State, RangesOk s → s.mode = .half → ∃ t, exec .setFull s = .next t ∧
    (angleQ2 s).toNat = (angleQ2 t).toNat + 15 * (s.pos.toNat % 2)

/-! ### Quadrature Decoder -/

/-- R152 to R157: a POLL takes three samples, decodes, and jogs the motor where there is a direction. -/
def Obligations.PollDecodesAndJogs : Prop :=
  encode .poll = 0b1000#4 ∧
  ∀ s : State, ∃ t, exec .poll s = .next t ∧
    t.encPrev.getLsbD 0 = ((lineAt s 0).a ^^ (lineAt s 1).a ^^ (lineAt s 2).a) ∧
    t.encPrev.getLsbD 1 = ((lineAt s 0).b ^^ (lineAt s 1).b ^^ (lineAt s 2).b) ∧
    (t.lastPollDir = .forward ↔ s.encPrev = 0b10 ∧ t.encPrev = 0b11) ∧
    (t.lastPollDir = .backward ↔ s.encPrev = 0b11 ∧ t.encPrev = 0b10) ∧
    (t.lastPollDir = .none → SameMotor s t) ∧
    (t.lastPollDir ≠ .none → MovedBy (stepDelta t.lastPollDir) s t ∧ t.coilOut = patternFor t.mode t.phase ∧
      t.out = s.out ++ announced t) ∧
    t.mark = s.mark ∧ SameSeek s t ∧ SameFlags s t ∧
    t.events = s.events ∧ t.encLines = s.encLines.drop 3 ∧ t.sampleCount = s.sampleCount + 3

/-- Where the previous encoder state is `00`, as after reset, or `01`, a POLL returns None and moves nothing. -/
def Obligations.FirstPollAfterResetReturnsNone : Prop :=
  ∀ (s : State) (rest : List Event) (lines more : List EncSample),
    s.events = .reset :: .command (encode .poll) lines :: rest →
    ∃ t, core.run 2 s = .next t ∧ t.lastPollDir = .none ∧ t.phase = 0 ∧ t.pos = 0 ∧ t.coilOut = 0 ∧ t.out = s.out ∧
      (∀ u : State, u.encPrev.getLsbD 1 = false → ∃ v, exec .poll { u with encLines := more } = .next v ∧
        v.lastPollDir = .none ∧ SameMotor u v)

/-! ### Mark and Seek Scheduler -/

/-- R188: NOP. -/
def Obligations.NopChangesNothing : Prop :=
  encode .nop = 0b0000#4 ∧ decode 0b0000#4 = .ok .nop ∧ ∀ s : State, exec .nop s = .next s

/-- R171: MARK. -/
def Obligations.MarkStoresThePosition : Prop :=
  encode .mark = 0b0110#4 ∧
  ∀ s : State, ∃ t, exec .mark s = .next t ∧ t.mark = s.pos ∧
    t.out = s.out ++ [.notify s.pos (angleQ2 s) s.mode] ∧
    t.mode = s.mode ∧ t.phase = s.phase ∧ t.pos = s.pos ∧ t.coilOut = s.coilOut ∧
    SameSeek s t ∧ SameDecoder s t ∧ SameFlags s t ∧ SameInputs s t

/-- R172 and the writes of SEEK: the pseudocode of `compute_seek`, and the frame of SEEK. -/
def Obligations.SeekStartsTheComputedJob : Prop :=
  encode .seek = 0b0111#4 ∧
  ∀ (s : State) (p m M diff₀ diff : Nat) (dir₀ dir : Direction),
    p = s.pos.toNat → m = s.mark.toNat → M = posMod s.mode → p < M → m < M →
    (if m ≤ p then diff₀ = p - m ∧ dir₀ = .forward else diff₀ = m - p ∧ dir₀ = .backward) →
    (if M / 2 < diff₀ then diff = M - diff₀ ∧ dir = flipDir dir₀ else diff = diff₀ ∧ dir = dir₀) →
    computeSeek p m M = (diff / 2, dir) ∧ diff / 2 ≤ M / 4 ∧
    ∃ t, exec .seek s = .next t ∧ t.seekRem.toNat = diff / 2 ∧ t.seekDir = dir ∧ t.stepDue = false ∧
      t.timerArmed = decide (0 < diff / 2) ∧
      t.mark = s.mark ∧ SameMotor s t ∧ SameDecoder s t ∧ SameFlags s t ∧ SameInputs s t

/-- R176: a seek to the position the block is at cancels any seek and arms no timer, so that no tick is possible. -/
def Obligations.ZeroLengthSeekDisarms : Prop :=
  ∀ s : State, s.pos = s.mark → ∃ t, exec .seek s = .next t ∧ t.seekRem = 0 ∧ t.timerArmed = false ∧ t.stepDue = false ∧
    (∀ u : State, tickEvent t ≠ .next u) ∧ SameMotor s t

/-- R175: nothing of the old job is left in what a SEEK ends in. -/
def Obligations.SeekSupersedesTheOldJob : Prop :=
  ∀ (s : State) (oldRem : BitVec 5) (oldDir : Direction) (oldDue oldArmed : Bool),
    ∃ t, exec .seek s = .next t ∧
      exec .seek { s with seekRem := oldRem, seekDir := oldDir, stepDue := oldDue, timerArmed := oldArmed } = .next t

/-- The distances `F` and `B` of the two ways round: a seek takes the shorter, on a tie the first branch's; and its bound. -/
def Obligations.SeekTakesTheShortestPath : Prop :=
  ∀ (md : Mode) (p m F B : Nat), p < posMod md → m < posMod md →
    F = (p + posMod md - m) % posMod md → B = (m + posMod md - p) % posMod md →
    (computeSeek p m (posMod md)).1 = min F B / 2 ∧
    (F < B → (computeSeek p m (posMod md)).2 = .forward) ∧
    (B < F → (computeSeek p m (posMod md)).2 = .backward) ∧
    (F = B → (computeSeek p m (posMod md)).2 = if m ≤ p then .forward else .backward) ∧
    (computeSeek p m (posMod md)).1 ≤ posMod md / 4

/-- Twice the count in the job's direction reaches the mark where the shortest distance is even, and stops one position short
of it where it is odd. -/
def Obligations.SeekJobReachesTheMark : Prop :=
  ∀ (md : Mode) (p m rem F B : Nat) (dir : Direction) (target : Int), p < posMod md → m < posMod md →
    F = (p + posMod md - m) % posMod md → B = (m + posMod md - p) % posMod md →
    computeSeek p m (posMod md) = (rem, dir) → target = ((p : Int) + stepDelta dir * (2 * rem)) % posMod md →
    (min F B % 2 = 0 → target = m) ∧ (min F B % 2 = 1 → (target + stepDelta dir) % posMod md = m)

/-- R185: SERVICE. Premise (an invariant, stated by EveryStepKeepsInvariant): a due step has a direction. -/
def Obligations.ServicePerformsTheDueStep : Prop :=
  encode .service = 0b1001#4 ∧
  ∀ s : State,
    (s.stepDue = false → exec .service s = .next s) ∧
    (s.stepDue = true → s.seekDir ≠ .none → ∃ u t, exec .service s = .next t ∧
      MovedBy (stepDelta s.seekDir) s u ∧ MovedBy (stepDelta s.seekDir) u t ∧
      t.coilOut = patternFor t.mode t.phase ∧ t.hilite = !s.hilite ∧ t.stepDue = false ∧
      t.out = s.out ++ announced u ++ announced t ++ [.hilite t.hilite] ∧
      t.seekRem = s.seekRem ∧ t.seekDir = s.seekDir ∧ t.timerArmed = s.timerArmed ∧ t.mark = s.mark ∧
      t.cmdErr = s.cmdErr ∧ SameDecoder s t ∧ SameInputs s t)

/-- R184: however many ticks come in a row, only "at least one step due" is left, the count has gone down by all of them, and
nothing has moved. -/
def Obligations.TicksInARowCoalesce : Prop :=
  ∀ (s : State) (n : Nat) (rest : List Event), TimerCoherent s → 0 < n → n ≤ s.seekRem.toNat →
    s.events = List.replicate n .tick ++ rest →
    ∃ t, core.run n s = .next t ∧ t.stepDue = true ∧ t.seekRem.toNat = s.seekRem.toNat - n ∧ TimerCoherent t ∧
      t.seekDir = s.seekDir ∧ t.mark = s.mark ∧ SameMotor s t ∧ SameDecoder s t ∧ SameFlags s t ∧ t.events = rest

/-- A seek whose every tick is serviced moves twice its count in its direction and completes, with the emissions counted. -/
def Obligations.ServicedSeekCompletes : Prop :=
  ∀ (s : State) (lines : List EncSample) (rest : List Event) (rem : Nat) (dir : Direction), RangesOk s →
    computeSeek s.pos.toNat s.mark.toNat (posMod s.mode) = (rem, dir) →
    s.events = .command (encode .seek) lines :: servicedTicks rem rest →
    ∃ t new, core.run (1 + 2 * rem) s = .next t ∧ SeekComplete t ∧
      (t.pos.toNat : Int) = (s.pos.toNat + stepDelta dir * (2 * rem)) % posMod s.mode ∧
      t.mode = s.mode ∧ t.mark = s.mark ∧ t.seekDir = dir ∧ t.events = rest ∧
      t.out = s.out ++ new ∧ emissionCounts new = (2 * rem, 2 * rem, rem)

/-- While the timer is armed a tick occurs once the host's events are through: the model's form of the liveness sentence of
44_seek_scheduler.md §4 (log entry 3). -/
def Obligations.ArmedTimerEventuallyTicks : Prop :=
  ∀ s : State, s.timerArmed = true → (∀ e ∈ s.events, leavesSeekRunning e = true) →
    ∃ t, core.run s.events.length s = .next t ∧ t.events = [] ∧ t.timerArmed = true ∧ t.seekRem = s.seekRem ∧
      core.run (s.events.length + 1) s = .next (tick t)

/-! ### Status read port -/

/-- R53: every address of the status register map, as the number its word stands for. -/
def Obligations.StatusPortReadsTheMap : Prop :=
  ∀ s : State,
    (regRead 0x0 s).toNat = (modeBit s.mode).toNat + 2 * s.timerArmed.toNat + 4 * s.stepDue.toNat +
      8 * s.hilite.toNat + 16 * s.cmdErr.toNat ∧
    (regRead 0x1 s).toNat = s.phase.toNat ∧ (regRead 0x2 s).toNat = s.pos.toNat ∧
    (regRead 0x3 s).toNat = s.mark.toNat ∧
    (regRead 0x4 s).toNat = s.seekRem.toNat + 256 * (dirBits s.seekDir).toNat ∧
    (regRead 0x5 s).toNat = s.encPrev.toNat + 256 * (dirBits s.lastPollDir).toNat ∧
    (regRead 0x6 s).toNat = s.coilOut.toNat + 256 * (curPattern s).toNat ∧
    (regRead 0x7 s).toNat = (angleQ2 s).toNat ∧
    (regRead 0x8 s).toNat = anglePerStepQ2 s.mode ∧
    (regRead 0x9 s).toNat = posMod s.mode + 256 * phaseMod s.mode ∧
    (∀ addr : BitVec 4, 0xA ≤ addr.toNat → regRead addr s = 0) ∧
    (modeBit .full = 0 ∧ modeBit .half = 1 ∧ dirBits .none = 0b00 ∧ dirBits .forward = 0b01 ∧ dirBits .backward = 0b10)
end

