-- ==== Sys2Proof/Laws/State.lean ====
section
/-! SUPPORT. The small lemmas of every named update of State: what each field is after it. -/

namespace Sys2Proof.Machine

variable (s : State)

@[simp] theorem raiseCmdErr_mode : (raiseCmdErr s).mode = s.mode := rfl
@[simp] theorem raiseCmdErr_phase : (raiseCmdErr s).phase = s.phase := rfl
@[simp] theorem raiseCmdErr_pos : (raiseCmdErr s).pos = s.pos := rfl
@[simp] theorem raiseCmdErr_mark : (raiseCmdErr s).mark = s.mark := rfl
@[simp] theorem raiseCmdErr_seekRem : (raiseCmdErr s).seekRem = s.seekRem := rfl
@[simp] theorem raiseCmdErr_seekDir : (raiseCmdErr s).seekDir = s.seekDir := rfl
@[simp] theorem raiseCmdErr_stepDue : (raiseCmdErr s).stepDue = s.stepDue := rfl
@[simp] theorem raiseCmdErr_timerArmed : (raiseCmdErr s).timerArmed = s.timerArmed := rfl
@[simp] theorem raiseCmdErr_encPrev : (raiseCmdErr s).encPrev = s.encPrev := rfl
@[simp] theorem raiseCmdErr_lastPollDir : (raiseCmdErr s).lastPollDir = s.lastPollDir := rfl
@[simp] theorem raiseCmdErr_coilOut : (raiseCmdErr s).coilOut = s.coilOut := rfl
@[simp] theorem raiseCmdErr_hilite : (raiseCmdErr s).hilite = s.hilite := rfl
@[simp] theorem raiseCmdErr_cmdErr : (raiseCmdErr s).cmdErr = true := rfl
@[simp] theorem raiseCmdErr_out : (raiseCmdErr s).out = s.out := rfl
@[simp] theorem raiseCmdErr_events : (raiseCmdErr s).events = s.events := rfl
@[simp] theorem raiseCmdErr_encLines : (raiseCmdErr s).encLines = s.encLines := rfl
@[simp] theorem raiseCmdErr_sampleCount : (raiseCmdErr s).sampleCount = s.sampleCount := rfl

@[simp] theorem toggleHilite_mode : (toggleHilite s).mode = s.mode := rfl
@[simp] theorem toggleHilite_phase : (toggleHilite s).phase = s.phase := rfl
@[simp] theorem toggleHilite_pos : (toggleHilite s).pos = s.pos := rfl
@[simp] theorem toggleHilite_mark : (toggleHilite s).mark = s.mark := rfl
@[simp] theorem toggleHilite_seekRem : (toggleHilite s).seekRem = s.seekRem := rfl
@[simp] theorem toggleHilite_seekDir : (toggleHilite s).seekDir = s.seekDir := rfl
@[simp] theorem toggleHilite_stepDue : (toggleHilite s).stepDue = s.stepDue := rfl
@[simp] theorem toggleHilite_timerArmed : (toggleHilite s).timerArmed = s.timerArmed := rfl
@[simp] theorem toggleHilite_encPrev : (toggleHilite s).encPrev = s.encPrev := rfl
@[simp] theorem toggleHilite_lastPollDir : (toggleHilite s).lastPollDir = s.lastPollDir := rfl
@[simp] theorem toggleHilite_coilOut : (toggleHilite s).coilOut = s.coilOut := rfl
@[simp] theorem toggleHilite_hilite : (toggleHilite s).hilite = !s.hilite := rfl
@[simp] theorem toggleHilite_cmdErr : (toggleHilite s).cmdErr = s.cmdErr := rfl
@[simp] theorem toggleHilite_out : (toggleHilite s).out = s.out := rfl
@[simp] theorem toggleHilite_events : (toggleHilite s).events = s.events := rfl
@[simp] theorem toggleHilite_encLines : (toggleHilite s).encLines = s.encLines := rfl
@[simp] theorem toggleHilite_sampleCount : (toggleHilite s).sampleCount = s.sampleCount := rfl

@[simp] theorem clearStepDue_mode : (clearStepDue s).mode = s.mode := rfl
@[simp] theorem clearStepDue_phase : (clearStepDue s).phase = s.phase := rfl
@[simp] theorem clearStepDue_pos : (clearStepDue s).pos = s.pos := rfl
@[simp] theorem clearStepDue_mark : (clearStepDue s).mark = s.mark := rfl
@[simp] theorem clearStepDue_seekRem : (clearStepDue s).seekRem = s.seekRem := rfl
@[simp] theorem clearStepDue_seekDir : (clearStepDue s).seekDir = s.seekDir := rfl
@[simp] theorem clearStepDue_stepDue : (clearStepDue s).stepDue = false := rfl
@[simp] theorem clearStepDue_timerArmed : (clearStepDue s).timerArmed = s.timerArmed := rfl
@[simp] theorem clearStepDue_encPrev : (clearStepDue s).encPrev = s.encPrev := rfl
@[simp] theorem clearStepDue_lastPollDir : (clearStepDue s).lastPollDir = s.lastPollDir := rfl
@[simp] theorem clearStepDue_coilOut : (clearStepDue s).coilOut = s.coilOut := rfl
@[simp] theorem clearStepDue_hilite : (clearStepDue s).hilite = s.hilite := rfl
@[simp] theorem clearStepDue_cmdErr : (clearStepDue s).cmdErr = s.cmdErr := rfl
@[simp] theorem clearStepDue_out : (clearStepDue s).out = s.out := rfl
@[simp] theorem clearStepDue_events : (clearStepDue s).events = s.events := rfl
@[simp] theorem clearStepDue_encLines : (clearStepDue s).encLines = s.encLines := rfl
@[simp] theorem clearStepDue_sampleCount : (clearStepDue s).sampleCount = s.sampleCount := rfl

@[simp] theorem emit_mode (e : Emission) : (emit e s).mode = s.mode := rfl
@[simp] theorem emit_phase (e : Emission) : (emit e s).phase = s.phase := rfl
@[simp] theorem emit_pos (e : Emission) : (emit e s).pos = s.pos := rfl
@[simp] theorem emit_mark (e : Emission) : (emit e s).mark = s.mark := rfl
@[simp] theorem emit_seekRem (e : Emission) : (emit e s).seekRem = s.seekRem := rfl
@[simp] theorem emit_seekDir (e : Emission) : (emit e s).seekDir = s.seekDir := rfl
@[simp] theorem emit_stepDue (e : Emission) : (emit e s).stepDue = s.stepDue := rfl
@[simp] theorem emit_timerArmed (e : Emission) : (emit e s).timerArmed = s.timerArmed := rfl
@[simp] theorem emit_encPrev (e : Emission) : (emit e s).encPrev = s.encPrev := rfl
@[simp] theorem emit_lastPollDir (e : Emission) : (emit e s).lastPollDir = s.lastPollDir := rfl
@[simp] theorem emit_coilOut (e : Emission) : (emit e s).coilOut = s.coilOut := rfl
@[simp] theorem emit_hilite (e : Emission) : (emit e s).hilite = s.hilite := rfl
@[simp] theorem emit_cmdErr (e : Emission) : (emit e s).cmdErr = s.cmdErr := rfl
@[simp] theorem emit_out (e : Emission) : (emit e s).out = s.out ++ [e] := rfl
@[simp] theorem emit_events (e : Emission) : (emit e s).events = s.events := rfl
@[simp] theorem emit_encLines (e : Emission) : (emit e s).encLines = s.encLines := rfl
@[simp] theorem emit_sampleCount (e : Emission) : (emit e s).sampleCount = s.sampleCount := rfl

@[simp] theorem notify_mode : (notify s).mode = s.mode := rfl
@[simp] theorem notify_phase : (notify s).phase = s.phase := rfl
@[simp] theorem notify_pos : (notify s).pos = s.pos := rfl
@[simp] theorem notify_mark : (notify s).mark = s.mark := rfl
@[simp] theorem notify_seekRem : (notify s).seekRem = s.seekRem := rfl
@[simp] theorem notify_seekDir : (notify s).seekDir = s.seekDir := rfl
@[simp] theorem notify_stepDue : (notify s).stepDue = s.stepDue := rfl
@[simp] theorem notify_timerArmed : (notify s).timerArmed = s.timerArmed := rfl
@[simp] theorem notify_encPrev : (notify s).encPrev = s.encPrev := rfl
@[simp] theorem notify_lastPollDir : (notify s).lastPollDir = s.lastPollDir := rfl
@[simp] theorem notify_coilOut : (notify s).coilOut = s.coilOut := rfl
@[simp] theorem notify_hilite : (notify s).hilite = s.hilite := rfl
@[simp] theorem notify_cmdErr : (notify s).cmdErr = s.cmdErr := rfl
@[simp] theorem notify_out : (notify s).out = s.out ++ [.notify s.pos (angleQ2 s) s.mode] := rfl
@[simp] theorem notify_events : (notify s).events = s.events := rfl
@[simp] theorem notify_encLines : (notify s).encLines = s.encLines := rfl
@[simp] theorem notify_sampleCount : (notify s).sampleCount = s.sampleCount := rfl

@[simp] theorem driveLines_mode (lines : List EncSample) : (driveLines lines s).mode = s.mode := rfl
@[simp] theorem driveLines_phase (lines : List EncSample) : (driveLines lines s).phase = s.phase := rfl
@[simp] theorem driveLines_pos (lines : List EncSample) : (driveLines lines s).pos = s.pos := rfl
@[simp] theorem driveLines_mark (lines : List EncSample) : (driveLines lines s).mark = s.mark := rfl
@[simp] theorem driveLines_seekRem (lines : List EncSample) : (driveLines lines s).seekRem = s.seekRem := rfl
@[simp] theorem driveLines_seekDir (lines : List EncSample) : (driveLines lines s).seekDir = s.seekDir := rfl
@[simp] theorem driveLines_stepDue (lines : List EncSample) : (driveLines lines s).stepDue = s.stepDue := rfl
@[simp] theorem driveLines_timerArmed (lines : List EncSample) : (driveLines lines s).timerArmed = s.timerArmed := rfl
@[simp] theorem driveLines_encPrev (lines : List EncSample) : (driveLines lines s).encPrev = s.encPrev := rfl
@[simp] theorem driveLines_lastPollDir (lines : List EncSample) : (driveLines lines s).lastPollDir = s.lastPollDir := rfl
@[simp] theorem driveLines_coilOut (lines : List EncSample) : (driveLines lines s).coilOut = s.coilOut := rfl
@[simp] theorem driveLines_hilite (lines : List EncSample) : (driveLines lines s).hilite = s.hilite := rfl
@[simp] theorem driveLines_cmdErr (lines : List EncSample) : (driveLines lines s).cmdErr = s.cmdErr := rfl
@[simp] theorem driveLines_out (lines : List EncSample) : (driveLines lines s).out = s.out := rfl
@[simp] theorem driveLines_events (lines : List EncSample) : (driveLines lines s).events = s.events := rfl
@[simp] theorem driveLines_encLines (lines : List EncSample) : (driveLines lines s).encLines = lines := rfl
@[simp] theorem driveLines_sampleCount (lines : List EncSample) : (driveLines lines s).sampleCount = s.sampleCount := rfl

@[simp] theorem refreshCoil_mode : (refreshCoil s).mode = s.mode := rfl
@[simp] theorem refreshCoil_phase : (refreshCoil s).phase = s.phase := rfl
@[simp] theorem refreshCoil_pos : (refreshCoil s).pos = s.pos := rfl
@[simp] theorem refreshCoil_mark : (refreshCoil s).mark = s.mark := rfl
@[simp] theorem refreshCoil_seekRem : (refreshCoil s).seekRem = s.seekRem := rfl
@[simp] theorem refreshCoil_seekDir : (refreshCoil s).seekDir = s.seekDir := rfl
@[simp] theorem refreshCoil_stepDue : (refreshCoil s).stepDue = s.stepDue := rfl
@[simp] theorem refreshCoil_timerArmed : (refreshCoil s).timerArmed = s.timerArmed := rfl
@[simp] theorem refreshCoil_encPrev : (refreshCoil s).encPrev = s.encPrev := rfl
@[simp] theorem refreshCoil_lastPollDir : (refreshCoil s).lastPollDir = s.lastPollDir := rfl
@[simp] theorem refreshCoil_coilOut : (refreshCoil s).coilOut = curPattern s := rfl
@[simp] theorem refreshCoil_hilite : (refreshCoil s).hilite = s.hilite := rfl
@[simp] theorem refreshCoil_cmdErr : (refreshCoil s).cmdErr = s.cmdErr := rfl
@[simp] theorem refreshCoil_out : (refreshCoil s).out = s.out ++ [.coil (curPattern s), .notify s.pos (angleQ2 s) s.mode] := by simp [refreshCoil, notify, emit, angleQ2]
@[simp] theorem refreshCoil_events : (refreshCoil s).events = s.events := rfl
@[simp] theorem refreshCoil_encLines : (refreshCoil s).encLines = s.encLines := rfl
@[simp] theorem refreshCoil_sampleCount : (refreshCoil s).sampleCount = s.sampleCount := rfl

@[simp] theorem rescaleToHalf_mode : (rescaleToHalf s).mode = .half := rfl
@[simp] theorem rescaleToHalf_phase : (rescaleToHalf s).phase = BitVec.ofNat 3 (s.phase.toNat * 2) := rfl
@[simp] theorem rescaleToHalf_pos : (rescaleToHalf s).pos = BitVec.ofNat 7 (s.pos.toNat * 2) := rfl
@[simp] theorem rescaleToHalf_mark : (rescaleToHalf s).mark = BitVec.ofNat 7 (s.mark.toNat * 2) := rfl
@[simp] theorem rescaleToHalf_seekRem : (rescaleToHalf s).seekRem = s.seekRem := rfl
@[simp] theorem rescaleToHalf_seekDir : (rescaleToHalf s).seekDir = s.seekDir := rfl
@[simp] theorem rescaleToHalf_stepDue : (rescaleToHalf s).stepDue = s.stepDue := rfl
@[simp] theorem rescaleToHalf_timerArmed : (rescaleToHalf s).timerArmed = s.timerArmed := rfl
@[simp] theorem rescaleToHalf_encPrev : (rescaleToHalf s).encPrev = s.encPrev := rfl
@[simp] theorem rescaleToHalf_lastPollDir : (rescaleToHalf s).lastPollDir = s.lastPollDir := rfl
@[simp] theorem rescaleToHalf_coilOut : (rescaleToHalf s).coilOut = s.coilOut := rfl
@[simp] theorem rescaleToHalf_hilite : (rescaleToHalf s).hilite = s.hilite := rfl
@[simp] theorem rescaleToHalf_cmdErr : (rescaleToHalf s).cmdErr = s.cmdErr := rfl
@[simp] theorem rescaleToHalf_out : (rescaleToHalf s).out = s.out := rfl
@[simp] theorem rescaleToHalf_events : (rescaleToHalf s).events = s.events := rfl
@[simp] theorem rescaleToHalf_encLines : (rescaleToHalf s).encLines = s.encLines := rfl
@[simp] theorem rescaleToHalf_sampleCount : (rescaleToHalf s).sampleCount = s.sampleCount := rfl

@[simp] theorem rescaleToFull_mode : (rescaleToFull s).mode = .full := rfl
@[simp] theorem rescaleToFull_phase : (rescaleToFull s).phase = BitVec.ofNat 3 (s.phase.toNat / 2) := rfl
@[simp] theorem rescaleToFull_pos : (rescaleToFull s).pos = BitVec.ofNat 7 (s.pos.toNat / 2) := rfl
@[simp] theorem rescaleToFull_mark : (rescaleToFull s).mark = BitVec.ofNat 7 (s.mark.toNat / 2) := rfl
@[simp] theorem rescaleToFull_seekRem : (rescaleToFull s).seekRem = s.seekRem := rfl
@[simp] theorem rescaleToFull_seekDir : (rescaleToFull s).seekDir = s.seekDir := rfl
@[simp] theorem rescaleToFull_stepDue : (rescaleToFull s).stepDue = s.stepDue := rfl
@[simp] theorem rescaleToFull_timerArmed : (rescaleToFull s).timerArmed = s.timerArmed := rfl
@[simp] theorem rescaleToFull_encPrev : (rescaleToFull s).encPrev = s.encPrev := rfl
@[simp] theorem rescaleToFull_lastPollDir : (rescaleToFull s).lastPollDir = s.lastPollDir := rfl
@[simp] theorem rescaleToFull_coilOut : (rescaleToFull s).coilOut = s.coilOut := rfl
@[simp] theorem rescaleToFull_hilite : (rescaleToFull s).hilite = s.hilite := rfl
@[simp] theorem rescaleToFull_cmdErr : (rescaleToFull s).cmdErr = s.cmdErr := rfl
@[simp] theorem rescaleToFull_out : (rescaleToFull s).out = s.out := rfl
@[simp] theorem rescaleToFull_events : (rescaleToFull s).events = s.events := rfl
@[simp] theorem rescaleToFull_encLines : (rescaleToFull s).encLines = s.encLines := rfl
@[simp] theorem rescaleToFull_sampleCount : (rescaleToFull s).sampleCount = s.sampleCount := rfl

@[simp] theorem startSeek_mode (job : Nat × Direction) : (startSeek job s).mode = s.mode := rfl
@[simp] theorem startSeek_phase (job : Nat × Direction) : (startSeek job s).phase = s.phase := rfl
@[simp] theorem startSeek_pos (job : Nat × Direction) : (startSeek job s).pos = s.pos := rfl
@[simp] theorem startSeek_mark (job : Nat × Direction) : (startSeek job s).mark = s.mark := rfl
@[simp] theorem startSeek_seekRem (job : Nat × Direction) : (startSeek job s).seekRem = BitVec.ofNat 5 job.1 := rfl
@[simp] theorem startSeek_seekDir (job : Nat × Direction) : (startSeek job s).seekDir = job.2 := rfl
@[simp] theorem startSeek_stepDue (job : Nat × Direction) : (startSeek job s).stepDue = false := rfl
@[simp] theorem startSeek_timerArmed (job : Nat × Direction) : (startSeek job s).timerArmed = armedFor job.1 := rfl
@[simp] theorem startSeek_encPrev (job : Nat × Direction) : (startSeek job s).encPrev = s.encPrev := rfl
@[simp] theorem startSeek_lastPollDir (job : Nat × Direction) : (startSeek job s).lastPollDir = s.lastPollDir := rfl
@[simp] theorem startSeek_coilOut (job : Nat × Direction) : (startSeek job s).coilOut = s.coilOut := rfl
@[simp] theorem startSeek_hilite (job : Nat × Direction) : (startSeek job s).hilite = s.hilite := rfl
@[simp] theorem startSeek_cmdErr (job : Nat × Direction) : (startSeek job s).cmdErr = s.cmdErr := rfl
@[simp] theorem startSeek_out (job : Nat × Direction) : (startSeek job s).out = s.out := rfl
@[simp] theorem startSeek_events (job : Nat × Direction) : (startSeek job s).events = s.events := rfl
@[simp] theorem startSeek_encLines (job : Nat × Direction) : (startSeek job s).encLines = s.encLines := rfl
@[simp] theorem startSeek_sampleCount (job : Nat × Direction) : (startSeek job s).sampleCount = s.sampleCount := rfl

@[simp] theorem phaseStep_mode (d : Direction) : (phaseStep d s).mode = s.mode := by cases d <;> rfl
@[simp] theorem phaseStep_mark (d : Direction) : (phaseStep d s).mark = s.mark := by cases d <;> rfl
@[simp] theorem phaseStep_seekRem (d : Direction) : (phaseStep d s).seekRem = s.seekRem := by cases d <;> rfl
@[simp] theorem phaseStep_seekDir (d : Direction) : (phaseStep d s).seekDir = s.seekDir := by cases d <;> rfl
@[simp] theorem phaseStep_stepDue (d : Direction) : (phaseStep d s).stepDue = s.stepDue := by cases d <;> rfl
@[simp] theorem phaseStep_timerArmed (d : Direction) : (phaseStep d s).timerArmed = s.timerArmed := by cases d <;> rfl
@[simp] theorem phaseStep_encPrev (d : Direction) : (phaseStep d s).encPrev = s.encPrev := by cases d <;> rfl
@[simp] theorem phaseStep_lastPollDir (d : Direction) : (phaseStep d s).lastPollDir = s.lastPollDir := by cases d <;> rfl
@[simp] theorem phaseStep_hilite (d : Direction) : (phaseStep d s).hilite = s.hilite := by cases d <;> rfl
@[simp] theorem phaseStep_cmdErr (d : Direction) : (phaseStep d s).cmdErr = s.cmdErr := by cases d <;> rfl
@[simp] theorem phaseStep_events (d : Direction) : (phaseStep d s).events = s.events := by cases d <;> rfl
@[simp] theorem phaseStep_encLines (d : Direction) : (phaseStep d s).encLines = s.encLines := by cases d <;> rfl
@[simp] theorem phaseStep_sampleCount (d : Direction) : (phaseStep d s).sampleCount = s.sampleCount := by cases d <;> rfl
@[simp] theorem phaseStep_coilOut (d : Direction) : (phaseStep d s).coilOut = s.coilOut := by cases d <;> rfl
@[simp] theorem phaseStep_out (d : Direction) : (phaseStep d s).out = s.out := by cases d <;> rfl

@[simp] theorem applyStep_mode (d : Direction) : (applyStep d s).mode = s.mode := by simp [applyStep]
@[simp] theorem applyStep_mark (d : Direction) : (applyStep d s).mark = s.mark := by simp [applyStep]
@[simp] theorem applyStep_seekRem (d : Direction) : (applyStep d s).seekRem = s.seekRem := by simp [applyStep]
@[simp] theorem applyStep_seekDir (d : Direction) : (applyStep d s).seekDir = s.seekDir := by simp [applyStep]
@[simp] theorem applyStep_stepDue (d : Direction) : (applyStep d s).stepDue = s.stepDue := by simp [applyStep]
@[simp] theorem applyStep_timerArmed (d : Direction) : (applyStep d s).timerArmed = s.timerArmed := by simp [applyStep]
@[simp] theorem applyStep_encPrev (d : Direction) : (applyStep d s).encPrev = s.encPrev := by simp [applyStep]
@[simp] theorem applyStep_lastPollDir (d : Direction) : (applyStep d s).lastPollDir = s.lastPollDir := by simp [applyStep]
@[simp] theorem applyStep_hilite (d : Direction) : (applyStep d s).hilite = s.hilite := by simp [applyStep]
@[simp] theorem applyStep_cmdErr (d : Direction) : (applyStep d s).cmdErr = s.cmdErr := by simp [applyStep]
@[simp] theorem applyStep_events (d : Direction) : (applyStep d s).events = s.events := by simp [applyStep]
@[simp] theorem applyStep_encLines (d : Direction) : (applyStep d s).encLines = s.encLines := by simp [applyStep]
@[simp] theorem applyStep_sampleCount (d : Direction) : (applyStep d s).sampleCount = s.sampleCount := by simp [applyStep]

end Sys2Proof.Machine
end

