-- ==== Sys2Proof/Laws/Ops.lean ====
section
/-! SUPPORT. One lemma per shared operation that says what it can do; proofs cite these and do not unfold the operations. -/

namespace Sys2Proof.Machine

/-! ### Constants and derived values -/

theorem phaseMod_le (m : Mode) : phaseMod m ≤ 8 := by cases m <;> decide

theorem posMod_le (m : Mode) : posMod m ≤ 96 := by cases m <;> decide

@[simp] theorem flipDir_flipDir (d : Direction) : flipDir (flipDir d) = d := by cases d <;> rfl

theorem flipDir_ne_none {d : Direction} (h : d ≠ .none) : flipDir d ≠ .none := by cases d <;> simp_all [flipDir]

/-- `ANGLE_Q2` holds the whole product where `POS` is legal (R117). -/
theorem angleQ2_toNat {s : State} (h : s.pos.toNat < posMod s.mode) :
    (angleQ2 s).toNat = s.pos.toNat * anglePerStepQ2 s.mode := by
  cases hm : s.mode <;> simp [angleQ2, anglePerStepQ2, hm, posMod] at * <;> omega

/-! ### Phase steps -/

/-- Everything a phase step does, in the integers of R112. -/
theorem phaseStep_moves (d : Direction) (hd : d ≠ .none) (s : State) : MovedBy (stepDelta d) s (phaseStep d s) := by
  have := s.phase.isLt
  have := s.pos.isLt
  cases d <;> cases hm : s.mode <;> simp [MovedBy, phaseStep, stepDelta, phaseMod, posMod, hm] at hd ⊢ <;> omega

theorem phaseStep_phase_lt (d : Direction) (hd : d ≠ .none) (s : State) :
    (phaseStep d s).phase.toNat < phaseMod s.mode := by
  have h := (phaseStep_moves d hd s).1
  have := phaseMod_le s.mode
  have := Int.emod_lt_of_pos ((s.phase.toNat : Int) + stepDelta d)
    (show (0 : Int) < phaseMod s.mode by cases s.mode <;> decide)
  omega

theorem phaseStep_pos_lt (d : Direction) (hd : d ≠ .none) (s : State) :
    (phaseStep d s).pos.toNat < posMod s.mode := by
  have h := (phaseStep_moves d hd s).2.1
  have := Int.emod_lt_of_pos ((s.pos.toNat : Int) + stepDelta d)
    (show (0 : Int) < posMod s.mode by cases s.mode <;> decide)
  omega

/-- Everything `apply_step` does (R113). -/
theorem applyStep_spec (d : Direction) (hd : d ≠ .none) (s : State) :
    MovedBy (stepDelta d) s (applyStep d s) ∧ (applyStep d s).coilOut = curPattern (applyStep d s) ∧
    (applyStep d s).out = s.out ++ announced (applyStep d s) ∧ (applyStep d s).mark = s.mark ∧
    SameSeek s (applyStep d s) ∧ SameDecoder s (applyStep d s) ∧ SameFlags s (applyStep d s) ∧
    SameInputs s (applyStep d s) := by
  refine ⟨phaseStep_moves d hd s, rfl, ?_, ?_⟩
  · simp [applyStep, curPattern, angleQ2]
  · simp

theorem applyStep_ranges (d : Direction) (hd : d ≠ .none) (s : State) :
    (applyStep d s).phase.toNat < phaseMod s.mode ∧ (applyStep d s).pos.toNat < posMod s.mode :=
  ⟨phaseStep_phase_lt d hd s, phaseStep_pos_lt d hd s⟩

/-- Two moves in a row are one move by the sum. -/
theorem movedBy_trans {a b : Int} {s t u : State} (h : MovedBy a s t) (h' : MovedBy b t u) : MovedBy (a + b) s u := by
  obtain ⟨hp, hq, hm⟩ := h
  obtain ⟨hp', hq', hm'⟩ := h'
  refine ⟨?_, ?_, hm'.trans hm⟩
  · rw [hp', hp, hm, Int.emod_add_emod, add_assoc]
  · rw [hq', hq, hm, Int.emod_add_emod, add_assoc]

/-- Phase steps keep the range and coherence of phase and position (R27, R28). -/
theorem movedBy_coherent {delta : Int} {s t : State} (h : MovedBy delta s t)
    (hc : PhaseCoherent s) : PhaseCoherent t := by
  obtain ⟨hp, hq, hm⟩ := h
  unfold PhaseCoherent at *
  rw [hm]
  cases hm' : s.mode <;> simp only [hm', phaseMod, posMod] at * <;> omega

theorem applyStep_coilOut (d : Direction) (s : State) : (applyStep d s).coilOut = curPattern (applyStep d s) := rfl

theorem applyStep_out (d : Direction) (s : State) : (applyStep d s).out = s.out ++ announced (applyStep d s) := by
  simp [applyStep, curPattern, angleQ2]

/-! ### Mode switches -/

/-- `set_mode` to the mode the block is in does nothing (R130). -/
@[simp] theorem setMode_same (s : State) : setMode s.mode s = s := by
  unfold setMode; cases s.mode <;> rfl

theorem setMode_toHalf {s : State} (h : s.mode = .full) : setMode .half s = refreshCoil (rescaleToHalf s) := by
  simp [setMode, h]

theorem setMode_toFull {s : State} (h : s.mode = .half) : setMode .full s = refreshCoil (rescaleToFull s) := by
  simp [setMode, h]

/-- The three ways `set_mode` ends (R130, R132, R133). -/
theorem setMode_cases (m : Mode) (s : State) :
    (s.mode = m ∧ setMode m s = s) ∨
    (s.mode = .full ∧ m = .half ∧ setMode m s = refreshCoil (rescaleToHalf s)) ∨
    (s.mode = .half ∧ m = .full ∧ setMode m s = refreshCoil (rescaleToFull s)) := by
  cases hm : s.mode <;> cases m <;> simp [setMode, hm]

/-! ### Samples -/

/-- The debounced state the next POLL finds (R153). -/
abbrev polled (s : State) : BitVec 2 := debounce (lineAt s 0) (lineAt s 1) (lineAt s 2)

/-- What a POLL writes whatever it finds: the decoder's registers, and the samples are taken (R152, R155). -/
abbrev pollWrites (s : State) : State :=
  { s with encPrev := polled s, lastPollDir := quadDirection s.encPrev (polled s)
           encLines := s.encLines.drop 3, sampleCount := s.sampleCount + 3 }

/-- A POLL takes three samples, writes the decoder's registers and jogs (R157). -/
theorem execPoll_eq (s : State) :
    execPoll s = .next (jog (quadDirection s.encPrev (polled s)) (pollWrites s)) := by
  simp [execPoll, decoderUpdate, polled, pollWrites, sample, lineAt, ← List.drop_one, List.drop_drop, List.getElem?_drop]

theorem jog_of_ne_none {d : Direction} (hd : d ≠ .none) (s : State) : jog d s = applyStep d s := by
  cases d <;> simp_all [jog]

/-- A POLL that finds no direction moves nothing (R156). -/
theorem execPoll_none {s : State} (h : quadDirection s.encPrev (polled s) = .none) :
    execPoll s = .next (pollWrites s) := by
  rw [execPoll_eq, h]; rfl

/-- A POLL that finds a direction takes one step that way (R156). -/
theorem execPoll_jog {s : State} (h : quadDirection s.encPrev (polled s) ≠ .none) :
    execPoll s = .next (applyStep (quadDirection s.encPrev (polled s)) (pollWrites s)) := by
  rw [execPoll_eq, jog_of_ne_none h]

/-- The two bits of the debounced state are the parities of the lines (R153). -/
theorem debounce_bits (x y z : EncSample) :
    (debounce x y z).getLsbD 0 = (x.a ^^ y.a ^^ z.a) ∧ (debounce x y z).getLsbD 1 = (x.b ^^ y.b ^^ z.b) := by
  rcases x with ⟨a, b⟩; rcases y with ⟨c, d⟩; rcases z with ⟨e, f⟩
  revert a b c d e f; decide

theorem quadDirection_forward (prev cur : BitVec 2) :
    quadDirection prev cur = .forward ↔ prev = 0b10 ∧ cur = 0b11 := by
  revert prev cur; decide

theorem quadDirection_backward (prev cur : BitVec 2) :
    quadDirection prev cur = .backward ↔ prev = 0b11 ∧ cur = 0b10 := by
  revert prev cur; decide

/-! ### Seek -/

/-- `compute_seek` on legal operands: count, direction and bound (R172, R178). -/
theorem computeSeek_spec {p m M : Nat} (hp : p < M) (hm : m < M) :
    computeSeek p m M =
      (if m ≤ p then
        if M / 2 < p - m then ((M - (p - m)) / 2, .backward) else ((p - m) / 2, .forward)
      else
        if M / 2 < m - p then ((M - (m - p)) / 2, .forward) else ((m - p) / 2, .backward)) := by
  by_cases h : m ≤ p
  · by_cases h2 : M / 2 < p - m
    · have e : ((M : Int) - ((p - m : Nat) : Int)).toNat = M - (p - m) := by omega
      have : (0 : Int) ≤ (M : Int) - ((p - m : Nat) : Int) := by omega
      simp only [computeSeek, seekBranch, seekComplement, seekHalve, if_pos h, if_pos h2, if_pos this, e, flipDir]
    · simp [computeSeek, seekBranch, seekComplement, seekHalve, h, h2]
  · by_cases h2 : M / 2 < m - p
    · have e : ((M : Int) - ((m - p : Nat) : Int)).toNat = M - (m - p) := by omega
      have : (0 : Int) ≤ (M : Int) - ((m - p : Nat) : Int) := by omega
      simp only [computeSeek, seekBranch, seekComplement, seekHalve, if_neg h, if_pos h2, if_pos this, e, flipDir]
    · simp [computeSeek, seekBranch, seekComplement, seekHalve, h, h2]

theorem computeSeek_bound {p m M : Nat} (hp : p < M) (hm : m < M) : (computeSeek p m M).1 ≤ M / 4 := by
  rw [computeSeek_spec hp hm]
  split <;> split <;> simp only <;> omega

theorem computeSeek_dir_ne_none (p m M : Nat) : (computeSeek p m M).2 ≠ .none := by
  simp only [computeSeek, seekComplement, seekBranch]
  split <;> split <;> simp [flipDir]

theorem computeSeek_self (p M : Nat) : computeSeek p p M = (0, .forward) := by
  simp [computeSeek, seekBranch, seekComplement, seekHalve]

/-! ### Emissions -/

theorem emissionCounts_append (xs ys : List Emission) :
    emissionCounts (xs ++ ys) = ((emissionCounts xs).1 + (emissionCounts ys).1,
      (emissionCounts xs).2.1 + (emissionCounts ys).2.1, (emissionCounts xs).2.2 + (emissionCounts ys).2.2) := by
  induction xs with
  | nil => simp [emissionCounts]
  | cons e xs ih => cases e <;> simp [emissionCounts, ih] <;> omega

/-! ### Status words -/

/-- A word with one field at bit 0 (R53). -/
theorem field_toNat {w : Nat} (v : BitVec w) (hw : w ≤ 16) : (field v 0).toNat = v.toNat := by
  have : v.toNat < 2 ^ 16 := Nat.lt_of_lt_of_le v.isLt (Nat.pow_le_pow_right (by decide) hw)
  simp [field]; omega

/-- A word with a field at bit 0 and one at bit 8 (R53). -/
theorem field_or_field_toNat {w v : Nat} (a : BitVec w) (b : BitVec v) (hw : w ≤ 8) (hv : v ≤ 8) :
    (field a 0 ||| field b 8).toNat = a.toNat + 256 * b.toNat := by
  have ha : a.toNat < 2 ^ 8 := Nat.lt_of_lt_of_le a.isLt (Nat.pow_le_pow_right (by decide) hw)
  have hb : b.toNat < 2 ^ 8 := Nat.lt_of_lt_of_le b.isLt (Nat.pow_le_pow_right (by decide) hv)
  have h := Nat.two_pow_add_eq_or_of_lt (i := 8) (b := a.toNat) ha b.toNat
  simp only [field, BitVec.toNat_or, BitVec.toNat_shiftLeft, BitVec.toNat_setWidth, Nat.shiftLeft_eq]
  rw [Nat.mod_eq_of_lt (a := a.toNat) (by omega), Nat.mod_eq_of_lt (a := b.toNat) (by omega), Nat.pow_zero, Nat.mul_one,
    Nat.mod_eq_of_lt (by omega), Nat.mod_eq_of_lt (by omega), Nat.lor_comm, Nat.mul_comm, ← h]
  omega

/-! ### Ticks -/

/-- Everything a tick does (R182). -/
theorem tick_spec (s : State) :
    (tick s).seekRem.toNat = s.seekRem.toNat - 1 ∧
    (0 < s.seekRem.toNat → (tick s).stepDue = true) ∧ (s.seekRem.toNat = 0 → (tick s).stepDue = s.stepDue) ∧
    ((tick s).seekRem.toNat = 0 → (tick s).timerArmed = false) ∧
    (0 < (tick s).seekRem.toNat → (tick s).timerArmed = s.timerArmed) ∧
    (tick s).seekDir = s.seekDir ∧ (tick s).mark = s.mark ∧ SameMotor s (tick s) ∧ SameDecoder s (tick s) ∧
    SameFlags s (tick s) ∧ SameInputs s (tick s) := by
  have := s.seekRem.isLt
  unfold tick tickDisarm tickCount
  by_cases h : 0 < s.seekRem.toNat
  · simp only [if_pos h]
    by_cases h1 : (BitVec.ofNat 5 (s.seekRem.toNat - 1)).toNat = 0 <;> simp only [h1, if_true, if_false] <;>
      simp at h1 ⊢ <;> omega
  · simp only [if_neg h]
    have h0 : s.seekRem.toNat = 0 := by omega
    simp [h0]

theorem tickEvent_armed {s : State} (h : s.timerArmed = true) : tickEvent s = .next (tick s) := by simp [tickEvent, h]

theorem tickEvent_disarmed {s : State} (h : s.timerArmed = false) : tickEvent s = .refused .tickNotAdmitted := by
  simp [tickEvent, h]

/-! ### Service -/

theorem serviceDue_eq (s : State) :
    serviceDue s = clearStepDue (emit (.hilite (!(applyStep s.seekDir (applyStep s.seekDir s)).hilite))
      (toggleHilite (applyStep s.seekDir (applyStep s.seekDir s)))) := rfl

/-- Everything a SERVICE does where a step is due and has a direction (R185). -/
theorem serviceDue_spec {s : State} (hd : s.seekDir ≠ .none) : ∃ u,
    MovedBy (stepDelta s.seekDir) s u ∧ MovedBy (stepDelta s.seekDir) u (serviceDue s) ∧
    (serviceDue s).coilOut = curPattern (serviceDue s) ∧ (serviceDue s).hilite = (!s.hilite) ∧
    (serviceDue s).stepDue = false ∧
    (serviceDue s).out = s.out ++ announced u ++ announced (serviceDue s) ++ [.hilite (serviceDue s).hilite] ∧
    (serviceDue s).seekRem = s.seekRem ∧ (serviceDue s).seekDir = s.seekDir ∧
    (serviceDue s).timerArmed = s.timerArmed ∧ (serviceDue s).mark = s.mark ∧
    (serviceDue s).cmdErr = s.cmdErr ∧ SameDecoder s (serviceDue s) ∧ SameInputs s (serviceDue s) := by
  obtain ⟨m1, -, o1, -⟩ := applyStep_spec _ hd s
  obtain ⟨m2, c2, o2, -⟩ := applyStep_spec _ hd (applyStep s.seekDir s)
  refine ⟨applyStep s.seekDir s, m1, m2, c2, ?_, rfl, ?_, ?_⟩ <;> rw [serviceDue_eq]
  · simp
  · simp [o1, o2, curPattern, angleQ2]
  · simp

/-- Whatever the direction is, SERVICE leaves these as they are (R185). -/
theorem applySteps_frame (d : Direction) (n : Nat) (s : State) :
    (applySteps d n s).mode = s.mode ∧ (applySteps d n s).mark = s.mark ∧ SameSeek s (applySteps d n s) ∧
    SameDecoder s (applySteps d n s) ∧ SameFlags s (applySteps d n s) ∧ SameInputs s (applySteps d n s) := by
  induction n generalizing s with
  | zero => simp [applySteps]
  | succ n ih => simpa [applySteps] using ih (applyStep d s)

end Sys2Proof.Machine
end

