-- ==== Sys2Proof/Laws/Exec.lean ====
section
/-! SUPPORT. What a command can do, said once. -/

namespace Sys2Proof.Machine

theorem exec_next (i : Instr) (s : State) : ∃ t, exec i s = .next t := by
  cases i <;> exact ⟨_, rfl⟩

theorem exec_setFull_half {s : State} (h : s.mode = .half) :
    exec .setFull s = .next (refreshCoil (rescaleToFull s)) := by rw [exec, execSetFull, setMode_toFull h]

theorem exec_setHalf_full {s : State} (h : s.mode = .full) :
    exec .setHalf s = .next (refreshCoil (rescaleToHalf s)) := by rw [exec, execSetHalf, setMode_toHalf h]

theorem exec_modeToggle_full {s : State} (h : s.mode = .full) :
    exec .modeToggle s = .next (refreshCoil (rescaleToHalf s)) := by
  rw [exec, execModeToggle, h, otherMode, setMode_toHalf h]

theorem exec_modeToggle_half {s : State} (h : s.mode = .half) :
    exec .modeToggle s = .next (refreshCoil (rescaleToFull s)) := by
  rw [exec, execModeToggle, h, otherMode, setMode_toFull h]

/-- The ways a command ends: with nothing changed, in a phase step, in a mode switch, in a mark, in a seek job, in a poll's
writes with or without a jog, or in a serviced step. -/
theorem exec_cases {i : Instr} {s t : State} (e : exec i s = .next t) :
    t = s ∨
    (∃ d, d ≠ .none ∧ t = applyStep d s ∧ (i = .stepFwd ∨ i = .stepBwd)) ∨
    ((i = .setFull ∨ i = .setHalf ∨ i = .modeToggle) ∧
      (s.mode = .full ∧ t = refreshCoil (rescaleToHalf s) ∨ s.mode = .half ∧ t = refreshCoil (rescaleToFull s))) ∨
    (i = .mark ∧ t = notify { s with mark := s.pos }) ∨
    (i = .seek ∧ t = startSeek (computeSeek s.pos.toNat s.mark.toNat (posMod s.mode)) s) ∨
    (i = .poll ∧ (t = pollWrites s ∨ ∃ d, d ≠ .none ∧ t = applyStep d (pollWrites s))) ∨
    (i = .service ∧ s.stepDue = true ∧ t = serviceDue s) := by
  cases i <;> simp only [exec] at e
  case nop => cases e; simp
  case stepFwd => cases e; exact .inr (.inl ⟨.forward, by decide, rfl, by simp⟩)
  case stepBwd => cases e; exact .inr (.inl ⟨.backward, by decide, rfl, by simp⟩)
  case setFull => cases e; rcases setMode_cases .full s with h | h | h <;> simp [h.2] <;> simp_all
  case setHalf => cases e; rcases setMode_cases .half s with h | h | h <;> simp [h.2] <;> simp_all
  case modeToggle =>
    cases e
    rcases setMode_cases (otherMode s.mode) s with h | h | h
    · simp [h.2]
    · rw [h.2.2]; simp [h.1]
    · rw [h.2.2]; simp [h.1]
  case mark => cases e; simp
  case seek => cases e; simp
  case poll =>
    refine .inr (.inr (.inr (.inr (.inr (.inl ⟨rfl, ?_⟩)))))
    by_cases hd : quadDirection s.encPrev (polled s) = .none
    · rw [execPoll_none hd] at e; cases e; exact .inl rfl
    · rw [execPoll_jog hd] at e; cases e; exact .inr ⟨_, hd, rfl⟩
  case service =>
    cases e
    split
    · simp_all
    · simp

end Sys2Proof.Machine
end

