-- ==== Sys2Proof/Laws/PerInstr.lean ====
section
/-! SUPPORT. The family Encoding: a command's code is no reserved one, and its mnemonic stands for it alone. -/

namespace Sys2Proof.Laws.Encoding

/-- A command is well formed, its code is a command's (R72, R75), and its mnemonic names exactly it (R78). -/
def Statement (i : Instr) : Prop := i.wf = true ∧ (encode i).wf = true ∧ ofMnemonic (mnemonic i) = some i

theorem nop : Statement .nop := by unfold Statement; decide
theorem stepFwd : Statement .stepFwd := by unfold Statement; decide
theorem stepBwd : Statement .stepBwd := by unfold Statement; decide
theorem setFull : Statement .setFull := by unfold Statement; decide
theorem setHalf : Statement .setHalf := by unfold Statement; decide
theorem modeToggle : Statement .modeToggle := by unfold Statement; decide
theorem mark : Statement .mark := by unfold Statement; decide
theorem seek : Statement .seek := by unfold Statement; decide
theorem poll : Statement .poll := by unfold Statement; decide
theorem service : Statement .service := by unfold Statement; decide

end Sys2Proof.Laws.Encoding
end

