-- ==== Sys2Proof/Laws/Step.lean ====
section
/-! SUPPORT. What a step can do, said once, and the decoder's small lemmas. -/

namespace Sys2Proof

theorem decode_lt {w : CmdWord} (h : w.toNat < 10) : ∃ i, decode w = .ok i ∧ w = encode i := by
  unfold decode
  match hn : w.toNat, h with
  | 0, _ | 1, _ | 2, _ | 3, _ | 4, _ | 5, _ | 6, _ | 7, _ | 8, _ | 9, _ =>
    exact ⟨_, rfl, BitVec.eq_of_toNat_eq hn⟩

theorem decode_reserved {w : CmdWord} (h : 10 ≤ w.toNat) : decode w = .error (.reservedCode w) := by
  have := w.isLt
  unfold decode
  split <;> first | omega | rfl

namespace Machine

theorem step_nil_idle {s : State} (h : s.events = []) (ha : s.timerArmed = false) : step s = .next s := by
  simp [step, takeEvent, h, ha]

theorem step_nil_armed {s : State} (h : s.events = []) (ha : s.timerArmed = true) : step s = .next (tick s) := by
  simp [step, takeEvent, h, ha, eventStep, tickEvent]

theorem step_cons {s : State} {e : Event} {rest : List Event} (h : s.events = e :: rest) :
    step s = eventStep e { s with events := rest } := by
  simp [step, takeEvent, h]

theorem step_command {s : State} {w : CmdWord} {lines : List EncSample} {rest : List Event} {i : Instr}
    (h : s.events = .command w lines :: rest) (hw : decode w = .ok i) :
    step s = exec i (driveLines lines { s with events := rest }) := by
  simp [step_cons h, eventStep, commandEvent, hw]

theorem step_reserved {s : State} {w : CmdWord} {lines : List EncSample} {rest : List Event}
    (h : s.events = .command w lines :: rest) (hw : 10 ≤ w.toNat) :
    step s = .next (raiseCmdErr { s with events := rest }) := by
  simp [step_cons h, eventStep, commandEvent, decode_reserved hw]

/-- The five ways a step answers a next state (R57, R75, R183, R214, R230). -/
theorem step_cases {s t : State} (h : step s = .next t) :
    (s.events = [] ∧ s.timerArmed = false ∧ t = s) ∨
    (∃ s', (s.events = [] ∧ s' = s ∨ ∃ rest, s.events = .tick :: rest ∧ s' = { s with events := rest }) ∧
      s.timerArmed = true ∧ t = tick s') ∨
    (∃ rest, s.events = .reset :: rest ∧ t = resetEvent { s with events := rest }) ∨
    (∃ w lines rest, s.events = .command w lines :: rest ∧ 10 ≤ w.toNat ∧ t = raiseCmdErr { s with events := rest }) ∨
    (∃ i lines rest, s.events = .command (encode i) lines :: rest ∧
      exec i (driveLines lines { s with events := rest }) = .next t) := by
  cases he : s.events with
  | nil =>
    cases ha : s.timerArmed with
    | false => rw [step_nil_idle he ha] at h; cases h; simp
    | true => rw [step_nil_armed he ha] at h; cases h; exact .inr (.inl ⟨s, by simp⟩)
  | cons e rest =>
    rw [step_cons he] at h
    cases e with
    | tick =>
      simp only [eventStep, tickEvent] at h
      split at h
      · cases h; exact .inr (.inl ⟨_, .inr ⟨rest, rfl, rfl⟩, ‹_›, rfl⟩)
      · cases h
    | reset => cases h; exact .inr (.inr (.inl ⟨rest, rfl, rfl⟩))
    | command w lines =>
      by_cases hw : 10 ≤ w.toNat
      · simp only [eventStep, commandEvent, decode_reserved hw] at h
        cases h; exact .inr (.inr (.inr (.inl ⟨w, lines, rest, rfl, hw, rfl⟩)))
      · obtain ⟨i, hi, rfl⟩ := decode_lt (by omega : w.toNat < 10)
        simp only [eventStep, commandEvent, hi] at h
        exact .inr (.inr (.inr (.inr ⟨i, lines, rest, rfl, h⟩)))

/-- A run's first step, where it answers a next state. -/
theorem run_succ {n : Nat} {s t : State} (h : step s = .next t) : core.run (n + 1) s = core.run n t := by
  have h' : core.step s = .next t := h
  simp only [Host.Core.run, h']

end Machine

end Sys2Proof
end

