-- ==== Sys2Proof/Tests/Slice0.lean ====
section
/-! SUPPORT. Tests: expected results are from the vectors of spec/95_test_vectors.md and the worked examples of the rules.
Witnesses: for each statement with hypotheses, a state and operands that meet them. -/

namespace Sys2Proof.Tests

open Sys2Proof.Machine

/-- Whether an outcome is a next state of which `p` holds. -/
def after (o : Host.Outcome State Fault Refusal) (p : State → Bool) : Bool :=
  match o with
  | .next t => p t
  | .fault _ => false
  | .refused _ => false

/-- The emissions of an outcome. -/
def emitted (o : Host.Outcome State Fault Refusal) : List Emission :=
  match o with
  | .next t => t.out
  | .fault _ => []
  | .refused _ => []

/-- A state in mode `m` with phase, position and mark given. -/
def at' (m : Mode) (phase : BitVec 3) (pos mark : BitVec 7) : State :=
  { State.reset with mode := m, phase := phase, pos := pos, mark := mark }

/-- A state with a seek job. -/
def seeking (rem : BitVec 5) (d : Direction) (due armed : Bool) (s : State) : State :=
  { s with seekRem := rem, seekDir := d, stepDue := due, timerArmed := armed }

/-- A state before a POLL in which the previous encoder state and the samples are given. -/
def polling (prev : BitVec 2) (xs : List EncSample) : State :=
  { State.reset with encPrev := prev, encLines := xs }

def queued (es : List Event) (s : State) : State := { s with events := es }

/-! ### Decoding: the words of the opcode map, bit by bit (R72) -/

theorem test_decode_nop : decode 0b0000#4 = .ok .nop := by rfl
theorem test_decode_stepFwd : decode 0b0001#4 = .ok .stepFwd := by rfl
theorem test_decode_stepBwd : decode 0b0010#4 = .ok .stepBwd := by rfl
theorem test_decode_setFull : decode 0b0011#4 = .ok .setFull := by rfl
theorem test_decode_setHalf : decode 0b0100#4 = .ok .setHalf := by rfl
theorem test_decode_modeToggle : decode 0b0101#4 = .ok .modeToggle := by rfl
theorem test_decode_mark : decode 0b0110#4 = .ok .mark := by rfl
theorem test_decode_seek : decode 0b0111#4 = .ok .seek := by rfl
theorem test_decode_poll : decode 0b1000#4 = .ok .poll := by rfl
theorem test_decode_service : decode 0b1001#4 = .ok .service := by rfl
theorem test_decode_reserved_low : decode 0b1010#4 = .error (.reservedCode 0b1010#4) := by rfl
theorem test_decode_reserved_high : decode 0b1111#4 = .error (.reservedCode 0b1111#4) := by rfl
theorem test_decode_too_wide : decodeTableWord 8 0x10 = none := by decide
theorem test_decode_table_word : decodeTableWord 8 0x9 = some .service := by decide

/-! ### Well-formedness smoke: an ill-formed term for each check -/

theorem test_wf_reserved_code : CmdWord.wf 0xA#4 = false ∧ CmdWord.wf 0x9#4 = true := by decide
theorem test_wf_reserved_address : statusAddrWf 0xA#4 = false ∧ statusAddrWf 0x9#4 = true := by decide
theorem test_wf_samples_on_nop :
    (Line.command .nop [⟨true, true⟩, ⟨true, true⟩, ⟨true, true⟩] 1).wf = false := by decide
theorem test_wf_two_samples : (Line.command .poll [⟨true, true⟩, ⟨true, true⟩] 1).wf = false := by decide
theorem test_wf_three_samples :
    (Line.command .poll [⟨true, true⟩, ⟨true, true⟩, ⟨true, false⟩] 1).wf = true := by decide

/-! ### Program notation (R77), lines of P1 to P3 -/

theorem test_line_count : readLine "STEP_FWD x8          ; 0x1 x8".toList = some (.command .stepFwd [] 8) := by decide
theorem test_line_poll : readLine "POLL [11 01 01]".toList =
    some (.command .poll [⟨true, true⟩, ⟨false, true⟩, ⟨false, true⟩] 1) := by decide
theorem test_line_tick : readLine "@tick ; 9 times".toList = some .tick := by decide
theorem test_line_lower_case : readLine "seek".toList = none := by decide
theorem test_program_encoding :
    programWords [.reset, .command .stepBwd [] 2, .command .seek [] 1, .tick, .command .service [] 1] =
      [2#4, 2#4, 7#4, 9#4] := by decide

/-! ### Phase Sequencer (95_test_vectors.md §2.2) -/

theorem test_stepFwd_wraps_full : after (exec .stepFwd (at' .full 0 0 0)) (fun t => t.phase == 3 && t.pos == 47) := by decide
theorem test_stepFwd_emits : emitted (exec .stepFwd (at' .half 0 0 0)) =
    [.coil (Config.stepTableHalf 7), .notify 95 1425 .half] := by rfl
theorem test_stepBwd_wraps_half : after (exec .stepBwd (at' .half 7 95 0)) (fun t => t.phase == 0 && t.pos == 0) := by decide
theorem test_stepBwd_emits : emitted (exec .stepBwd (at' .full 2 10 0)) =
    [.coil (Config.stepTableFull 3), .notify 11 330 .full] := by rfl

/-! ### Mode Controller (§2.3) -/

theorem test_setFull_rounds_down : after (exec .setFull (at' .half 7 95 95))
    (fun t => t.mode == .full && t.phase == 3 && t.pos == 47 && t.mark == 47) := by decide
theorem test_setFull_in_full : exec .setFull (at' .full 2 10 7) = .next (at' .full 2 10 7) := by rfl
theorem test_setHalf_doubles : after (exec .setHalf (at' .full 3 47 46))
    (fun t => t.mode == .half && t.phase == 6 && t.pos == 94 && t.mark == 92) := by decide
theorem test_setHalf_emits : emitted (exec .setHalf (at' .full 3 47 46)) =
    [.coil (Config.stepTableHalf 6), .notify 94 1410 .half] := by rfl
theorem test_modeToggle_to_full : after (exec .modeToggle (at' .half 5 13 40))
    (fun t => t.mode == .full && t.phase == 2 && t.pos == 6 && t.mark == 20) := by decide
theorem test_modeToggle_emits : emitted (exec .modeToggle (at' .full 1 9 0)) =
    [.coil (Config.stepTableHalf 2), .notify 18 270 .half] := by rfl

/-! ### Quadrature Decoder (§2.4); a sample is written `⟨a, b⟩` -/

theorem test_poll_parity_forward : after (exec .poll (polling 0b10 [⟨true, true⟩, ⟨false, true⟩, ⟨false, true⟩]))
    (fun t => t.encPrev == 0b11 && t.lastPollDir == .forward && t.phase == 3 && t.pos == 47) := by decide
theorem test_poll_backward : after (exec .poll (polling 0b11 [⟨false, true⟩, ⟨false, true⟩, ⟨false, true⟩]))
    (fun t => t.encPrev == 0b10 && t.lastPollDir == .backward && t.phase == 1 && t.pos == 1) := by decide

/-! ### Mark and Seek Scheduler (§2.5) -/

theorem test_nop : exec .nop (at' .full 1 5 7) = .next (at' .full 1 5 7) := by rfl
theorem test_mark_stores : after (exec .mark (at' .full 2 10 0))
    (fun t => t.mark == 10 && t.out == [.notify 10 300 .full]) := by decide
theorem test_seek_worked_example : after (exec .seek (at' .full 2 10 40))
    (fun t => t.seekRem == 9 && t.seekDir == .forward && t.timerArmed && !t.stepDue) := by decide
theorem test_seek_tie_and_maximum : after (exec .seek (at' .half 0 0 48))
    (fun t => t.seekRem == 24 && t.seekDir == .backward) := by decide
theorem test_computeSeek_vectors : computeSeek 90 3 96 = (4, .backward) ∧ computeSeek 0 47 48 = (0, .forward) ∧
    computeSeek 24 0 48 = (12, .forward) ∧ computeSeek 13 20 48 = (3, .backward) := by decide
theorem test_service_two_steps : emitted (exec .service (seeking 4 .forward true true (at' .full 2 10 0))) =
    [.coil (Config.stepTableFull 1), .notify 9 270 .full, .coil (Config.stepTableFull 0), .notify 8 240 .full,
      .hilite true] := by rfl
theorem test_service_wraps : after (exec .service { seeking 0 .backward true false (at' .full 3 47 0) with hilite := true })
    (fun t => t.phase == 1 && t.pos == 1 && !t.hilite && !t.stepDue) := by decide
theorem test_tick_last : after (step (queued [.tick] (seeking 1 .forward false true State.reset)))
    (fun t => t.seekRem == 0 && t.stepDue && !t.timerArmed) := by decide
theorem test_tick_coalesces : after (step (queued [.tick] (seeking 2 .forward true true State.reset)))
    (fun t => t.seekRem == 1 && t.stepDue && t.timerArmed) := by decide

/-! ### Reserved codes, resets and status reads (§2.6) -/

theorem test_reserved_code : after (step (State.reset.withFetchWord 8 0xA)) (fun t => regRead 0x0 t == 0x0010) := by decide
theorem test_reset_clears_error : after (step (queued [.reset] { State.reset with cmdErr := true })) (fun t => !t.cmdErr) := by
  decide
theorem test_fetch_word_runs : step (State.reset.withFetchWord 8 2) = exec .stepBwd State.reset := by rfl
theorem test_status_coil_at_reset : regRead 0x6 State.reset = (Config.stepTableFull 0).setWidth 16 <<< 8 := by
  simp [regRead, field, curPattern, patternFor, State.reset]
theorem test_status_moduli_half : regRead 0x9 (at' .half 0 0 0) = 0x0860 ∧ regRead 0xB (at' .half 0 0 0) = 0 := by decide

/-! ### Witnesses: the hypotheses of each statement can be met, at boundaries of each clause -/

theorem witness_CommandWordsDecodeAsTheOpcodeMap : 10 ≤ (0xA#4 : CmdWord).toNat ∧ 10 ≤ (0xF#4 : CmdWord).toNat := by decide
theorem witness_CodesAreCommandsOrReserved : (0x9#4 : CmdWord).toNat < 10 ∧ 10 ≤ (0xA#4 : CmdWord).toNat ∧
    (queued [.command 0xA#4 []] State.reset).events = .command 0xA#4 [] :: [] := by decide
theorem witness_EncodingsRoundTrip : decode 0x9#4 = .ok .service := by rfl
theorem witness_StepRunsTheDecodedCommand :
    (queued [.command 0x8#4 [⟨true, true⟩], .tick] State.reset).events = .command 0x8#4 [⟨true, true⟩] :: [.tick] ∧
    decode 0x8#4 = .ok .poll := ⟨rfl, rfl⟩
theorem witness_CommandsNeverTrapAndAlwaysComplete :
    (queued [.command 0xF#4 []] State.reset).events = .command 0xF#4 [] :: [] := rfl
theorem witness_IdleBlockKeepsItsState : State.reset.events = [] ∧ State.reset.timerArmed = false := by decide
theorem witness_TickConsumesOneUnit_armed :
    ∀ r ∈ [0#5, 1#5, 2#5, 24#5], (queued [.tick] (seeking r .forward false true State.reset)).events = .tick :: [] ∧
      (queued [.tick] (seeking r .forward false true State.reset)).timerArmed = true := by decide
theorem witness_TickWhileDisarmedIsRefused :
    (queued [.tick] State.reset).events = .tick :: [] ∧ (queued [.tick] State.reset).timerArmed = false := by decide
theorem witness_IdleHostLetsTheTimerTick :
    (seeking 1 .forward false true State.reset).events = [] ∧ (seeking 1 .forward false true State.reset).timerArmed = true := by
  decide
theorem witness_ResetEventSetsResetValues : (queued [.reset, .tick] State.reset).events = .reset :: [.tick] := rfl
theorem witness_EveryStepKeepsInvariant :
    Invariant (queued [.command 0x7#4 []] State.reset) ∧
    ∃ t, step (queued [.command 0x7#4 []] State.reset) = .next t :=
  ⟨⟨by decide, by decide, by decide, by decide, by decide, .inr (by decide)⟩, _, rfl⟩
theorem witness_OutputSequenceOnlyGrows :
    (∃ t, step (queued [.tick] (seeking 1 .forward false true State.reset)) = .next t) ∧
    (∃ t, step (queued [.reset] State.reset) = .next t) ∧ (∃ t, step State.reset = .next t) :=
  ⟨⟨_, rfl⟩, ⟨_, rfl⟩, ⟨_, rfl⟩⟩
theorem witness_ChangesAreAnnounced : ∃ t, exec .setHalf (at' .full 1 9 0) = .next t ∧ t.pos ≠ (at' .full 1 9 0).pos ∧
    t.phase ≠ (at' .full 1 9 0).phase := ⟨_, rfl, by decide, by decide⟩
theorem witness_OnlyPollReadsTheEncoder : Instr.service ≠ .poll := by decide
theorem witness_RegistersChangeOnlyByTheirCommands : ∃ t, exec .seek (at' .full 2 10 40) = .next t ∧
    t.seekRem ≠ (at' .full 2 10 40).seekRem := ⟨_, rfl, by decide⟩
theorem witness_CommandErrorIsSticky_set : ∃ t, step (queued [.command 0xA#4 []] State.reset) = .next t ∧
    State.reset.cmdErr = false ∧ t.cmdErr = true := ⟨_, rfl, rfl, rfl⟩
theorem witness_CommandErrorIsSticky_cleared : ∃ t, step (queued [.reset] { State.reset with cmdErr := true }) = .next t ∧
    t.cmdErr = false := ⟨_, rfl, rfl⟩
theorem witness_TimerIsArmedBySeekAlone_armed : ∃ t, step (queued [.command 0x7#4 []] (at' .full 2 10 40)) = .next t ∧
    t.timerArmed = true := ⟨_, rfl, by decide⟩
theorem witness_TimerIsArmedBySeekAlone_disarmed :
    ∃ t, step (seeking 1 .forward false true State.reset) = .next t ∧ t.timerArmed = false := ⟨_, rfl, by decide⟩
theorem witness_SeekDirectionStaysKnown : ∃ t, step (queued [.reset] (seeking 1 .forward false true State.reset)) = .next t ∧
    (seeking 1 .forward false true State.reset).seekDir ≠ .none ∧ t.seekDir = .none := ⟨_, rfl, by decide, rfl⟩
theorem witness_PollAndTickCommute : (seeking 1 .forward false true State.reset).timerArmed = true := rfl
theorem witness_StepsMoveOnePhase : ∃ (i j : Instr) (d e : Direction), i = .stepFwd ∧ d = .forward ∧ j = .stepBwd ∧ e = .backward :=
  ⟨_, _, _, _, rfl, rfl, rfl, rfl⟩
theorem witness_PatternsComeFromTheStepTables : (3#3).toNat < 4 := by decide
theorem witness_OppositeStepsCancel : RangesOk (at' .full 3 47 47) ∧ RangesOk (at' .half 7 95 95) := by decide
theorem witness_FullRevolutionCloses : ∃ s : State, RangesOk s ∧ posMod s.mode = 48 ∧
    s.events = List.replicate 48 (.command (encode .stepFwd) []) ++ [] :=
  ⟨queued (List.replicate 48 (.command (encode .stepFwd) []) ++ []) State.reset, by decide, rfl, rfl⟩
theorem witness_FullRevolutionCloses_phase : ∃ s : State, RangesOk s ∧ phaseMod s.mode = 4 ∧
    s.events = List.replicate 4 (.command (encode .stepBwd) []) ++ [] :=
  ⟨queued (List.replicate 4 (.command (encode .stepBwd) []) ++ []) State.reset, by decide, rfl, rfl⟩
theorem witness_DerivedValuesFollowTheRegisters : RangesOk (at' .full 3 47 0) ∧ RangesOk (at' .half 7 95 0) := by decide
theorem witness_SetFullHalves : (at' .full 0 0 0).mode = .full ∧ (at' .half 7 95 95).mode = .half := by decide
theorem witness_SetHalfDoubles : RangesOk (at' .full 3 47 47) ∧ (at' .full 3 47 47).mode = .full ∧
    RangesOk (at' .half 7 95 95) ∧ (at' .half 7 95 95).mode = .half := by decide
theorem witness_ModeToggleAlwaysSwitches : RangesOk (at' .full 3 47 47) ∧ RangesOk (at' .half 7 95 95) := by decide
theorem witness_ModeSwitchRoundTrips : RangesOk (at' .full 0 0 0) ∧ RangesOk (at' .half 6 94 94) := by decide
theorem witness_HalfToFullLosesAHalfStep : RangesOk (at' .half 7 95 0) ∧ (at' .half 7 95 0).mode = .half := by decide
theorem witness_PollDecodesAndJogs_forward :
    after (exec .poll (polling 0b10 [⟨true, true⟩, ⟨true, true⟩, ⟨true, true⟩])) (fun t => t.lastPollDir == .forward) := by decide
theorem witness_PollDecodesAndJogs_none :
    after (exec .poll (polling 0b10 [⟨true, true⟩, ⟨true, true⟩, ⟨false, true⟩])) (fun t => t.lastPollDir == .none) := by decide
theorem witness_FirstPollAfterResetReturnsNone :
    (queued [.reset, .command (encode .poll) []] State.reset).events = .reset :: .command (encode .poll) [] :: [] ∧
    (0b01#2).getLsbD 1 = false := by decide
theorem witness_SeekStartsTheComputedJob : ∃ (s : State) (diff₀ diff : Nat) (dir₀ dir : Direction),
    s.pos.toNat < posMod s.mode ∧ s.mark.toNat < posMod s.mode ∧
    (if s.mark.toNat ≤ s.pos.toNat then diff₀ = s.pos.toNat - s.mark.toNat ∧ dir₀ = .forward
      else diff₀ = s.mark.toNat - s.pos.toNat ∧ dir₀ = .backward) ∧
    (if posMod s.mode / 2 < diff₀ then diff = posMod s.mode - diff₀ ∧ dir = flipDir dir₀ else diff = diff₀ ∧ dir = dir₀) :=
  ⟨at' .full 2 10 40, 30, 18, .backward, .forward, by decide⟩
theorem witness_ZeroLengthSeekDisarms : (at' .full 1 5 5).pos = (at' .full 1 5 5).mark := rfl
theorem witness_SeekTakesTheShortestPath : 24 < posMod .full ∧ 0 < posMod .full ∧
    24 = (24 + posMod .full - 0) % posMod .full ∧ 24 = (0 + posMod .full - 24) % posMod .full := by decide
theorem witness_SeekJobReachesTheMark : 13 < posMod .full ∧ 20 < posMod .full ∧
    41 = (13 + posMod .full - 20) % posMod .full ∧ 7 = (20 + posMod .full - 13) % posMod .full ∧
    computeSeek 13 20 (posMod .full) = (3, .backward) ∧
    (19 : Int) = ((13 : Int) + stepDelta .backward * (2 * 3)) % posMod .full := by decide
theorem witness_SeekJobReachesTheMark_even : 10 < posMod .full ∧ 40 < posMod .full ∧
    18 = (10 + posMod .full - 40) % posMod .full ∧ 30 = (40 + posMod .full - 10) % posMod .full ∧
    computeSeek 10 40 (posMod .full) = (9, .forward) ∧ min 18 30 % 2 = 0 ∧
    (40 : Int) = ((10 : Int) + stepDelta .forward * (2 * 9)) % posMod .full := by decide
theorem witness_ServicePerformsTheDueStep : (seeking 0 .backward true false State.reset).stepDue = true ∧
    (seeking 0 .backward true false State.reset).seekDir ≠ .none ∧ State.reset.stepDue = false := by decide
theorem witness_TicksInARowCoalesce : ∃ s : State, TimerCoherent s ∧ 0 < 2 ∧ 2 ≤ s.seekRem.toNat ∧
    s.events = List.replicate 2 .tick ++ [] :=
  ⟨queued (List.replicate 2 .tick ++ []) (seeking 2 .forward false true State.reset), by decide, by decide, by decide, rfl⟩
theorem witness_ServicedSeekCompletes : ∃ s : State, RangesOk s ∧
    computeSeek s.pos.toNat s.mark.toNat (posMod s.mode) = (9, .forward) ∧
    s.events = .command (encode .seek) [] :: servicedTicks 9 [] :=
  ⟨queued (.command (encode .seek) [] :: servicedTicks 9 []) (at' .full 2 10 40), by decide, by decide, rfl⟩
theorem witness_ArmedTimerEventuallyTicks :
    (queued [.command 0x1#4 [], .command 0xA#4 []] (seeking 1 .forward false true State.reset)).timerArmed = true ∧
    ∀ e ∈ (queued [.command 0x1#4 [], .command 0xA#4 []] (seeking 1 .forward false true State.reset)).events,
      leavesSeekRunning e = true := by decide
theorem witness_StatusPortReadsTheMap : 0xA ≤ (0xA#4).toNat ∧ 0xA ≤ (0xF#4).toNat := by decide

end Sys2Proof.Tests
end

section
/-! The derived values of R26 and the exact angle of R117. -/

namespace Sys2Proof.Machine

/-! ### The angle -/

/-- The division in R26's `ANGLE_PER_STEP_Q2` leaves no remainder: the steps of one revolution make up the full circle. -/
theorem anglePerStepQ2_mul_posMod (m : Mode) : anglePerStepQ2 m * posMod m = 360 * 4 := by cases m <;> rfl

theorem anglePerStepQ2_pos (m : Mode) : 0 < anglePerStepQ2 m := by cases m <;> decide

theorem angleQ2_toNat_mul_posMod {s : State} (h : s.pos.toNat < posMod s.mode) :
    (angleQ2 s).toNat * posMod s.mode = s.pos.toNat * (360 * 4) := by
  rw [angleQ2_toNat h, Nat.mul_assoc, anglePerStepQ2_mul_posMod]

theorem angleQ2_toNat_lt {s : State} (h : s.pos.toNat < posMod s.mode) : (angleQ2 s).toNat < 360 * 4 :=
  calc (angleQ2 s).toNat
    _ = s.pos.toNat * anglePerStepQ2 s.mode := angleQ2_toNat h
    _ < posMod s.mode * anglePerStepQ2 s.mode := Nat.mul_lt_mul_of_pos_right h (anglePerStepQ2_pos s.mode)
    _ = 360 * 4 := by rw [Nat.mul_comm, anglePerStepQ2_mul_posMod]

/-! ### The derived values -/

/-- Settles O28: the constants are read off per mode, and the angle clauses follow from the product's exactness for a
legal `POS`. -/
theorem derivedValuesFollowTheRegisters : Obligations.DerivedValuesFollowTheRegisters := by
  rintro s ⟨-, hpos, -⟩
  refine ⟨?full, ?half, rfl, angleQ2_toNat hpos, rfl, angleQ2_toNat_mul_posMod hpos, angleQ2_toNat_lt hpos⟩
  case full => intro hm; rw [hm]; decide
  case half => intro hm; rw [hm]; decide

end Sys2Proof.Machine
end

section
/-! The status register map of R53, read as numbers. -/

namespace Sys2Proof.Machine

/-! ### The derived constants fit their fields -/

theorem ofNat_anglePerStepQ2_toNat (m : Mode) : (BitVec.ofNat 5 (anglePerStepQ2 m)).toNat = anglePerStepQ2 m := by
  cases m <;> rfl

theorem ofNat_posMod_toNat (m : Mode) : (BitVec.ofNat 7 (posMod m)).toNat = posMod m := by cases m <;> rfl

theorem ofNat_phaseMod_toNat (m : Mode) : (BitVec.ofNat 4 (phaseMod m)).toNat = phaseMod m := by cases m <;> rfl

/-! ### The words -/

/-- Five one-bit fields side by side do not overlap: the word STATUS (R53). -/
theorem flagFields_toNat (m : BitVec 1) (armed due hilite err : Bool) :
    (field m 0 ||| field (BitVec.ofBool armed) 1 ||| field (BitVec.ofBool due) 2 ||| field (BitVec.ofBool hilite) 3
      ||| field (BitVec.ofBool err) 4).toNat =
    m.toNat + 2 * armed.toNat + 4 * due.toNat + 8 * hilite.toNat + 16 * err.toNat := by
  revert m armed due hilite err; decide

theorem regRead_anglePerStep_toNat (s : State) : (regRead 0x8 s).toNat = anglePerStepQ2 s.mode :=
  calc (regRead 0x8 s).toNat
    _ = (BitVec.ofNat 5 (anglePerStepQ2 s.mode)).toNat := field_toNat _ (by decide)
    _ = anglePerStepQ2 s.mode := ofNat_anglePerStepQ2_toNat s.mode

theorem regRead_moduli_toNat (s : State) : (regRead 0x9 s).toNat = posMod s.mode + 256 * phaseMod s.mode :=
  calc (regRead 0x9 s).toNat
    _ = (BitVec.ofNat 7 (posMod s.mode)).toNat + 256 * (BitVec.ofNat 4 (phaseMod s.mode)).toNat :=
      field_or_field_toNat _ _ (by decide) (by decide)
    _ = posMod s.mode + 256 * phaseMod s.mode := by rw [ofNat_posMod_toNat, ofNat_phaseMod_toNat]

/-- The reserved addresses (R54). -/
theorem regRead_reserved (s : State) {addr : BitVec 4} (h : 0xA ≤ addr.toNat) : regRead addr s = 0 := by
  obtain ⟨n, hn⟩ := Nat.exists_eq_add_of_le' h
  rw [regRead, hn]; rfl

/-- Settles O47: every word is one, two or five fields that do not overlap, and each field is wide enough for its value. -/
theorem statusPortReadsTheMap : Obligations.StatusPortReadsTheMap := by
  intro s
  refine ⟨?status, ?phase, ?pos, ?mark, ?seek, ?decoder, ?coil, ?angle, regRead_anglePerStep_toNat s,
    regRead_moduli_toNat s, fun _ => regRead_reserved s, ?codes⟩
  case status => exact flagFields_toNat _ _ _ _ _
  case phase => exact field_toNat s.phase (by decide)
  case pos => exact field_toNat s.pos (by decide)
  case mark => exact field_toNat s.mark (by decide)
  case seek => exact field_or_field_toNat s.seekRem _ (by decide) (by decide)
  case decoder => exact field_or_field_toNat s.encPrev _ (by decide) (by decide)
  case coil => exact field_or_field_toNat s.coilOut _ (by decide) (by decide)
  case angle => exact field_toNat (angleQ2 s) (by decide)
  case codes => decide

end Sys2Proof.Machine
end

section
/-! The opcode map of R72 and the reserved codes of R75. -/

namespace Sys2Proof.Machine

/-- Settles O2: the decoder splits the words at 10, and a step on a reserved word does what `raiseCmdErr` does to the state
without the event, which is to write `CMD_ERR` alone (R75). -/
theorem codesAreCommandsOrReserved : Obligations.CodesAreCommandsOrReserved := by
  refine ⟨?commands, ?reserved⟩
  case commands =>
    intro w hw
    obtain ⟨i, hi, -⟩ := decode_lt hw
    exact ⟨i, hi⟩
  case reserved =>
    intro w lines rest s hw hs
    refine ⟨decode_reserved hw, ?_⟩
    calc step s
      _ = .next (raiseCmdErr { s with events := rest }) := step_reserved hs hw
      _ = .next { s with events := rest, cmdErr := true } := rfl

/-- Settles O1: the decoder computes the ten rows of the map, and `decode_reserved` covers the other words (R72). -/
theorem commandWordsDecodeAsTheOpcodeMap : Obligations.CommandWordsDecodeAsTheOpcodeMap :=
  ⟨rfl, rfl, rfl, rfl, rfl, rfl, rfl, rfl, rfl, rfl, fun _ => decode_reserved⟩

end Sys2Proof.Machine
end

section
/-! The step tables of R101, and the coil leads after a step command. -/

namespace Sys2Proof.Machine

theorem patternFor_full {p : BitVec 3} (h : p.toNat < 4) : patternFor .full p = Config.stepTableFull ⟨p.toNat, h⟩ :=
  dif_pos h

theorem patternFor_half (p : BitVec 3) : patternFor .half p = Config.stepTableHalf p.toFin := rfl

/-- Both step commands are one application of `apply_step` (R114, R115). -/
theorem exec_step_eq_applyStep {i : Instr} (h : i = .stepFwd ∨ i = .stepBwd) (s : State) :
    ∃ d, exec i s = .next (applyStep d s) := by
  rcases h with rfl | rfl
  · exact ⟨.forward, rfl⟩
  · exact ⟨.backward, rfl⟩

/-- A phase step leaves on the leads the pattern of the mode and phase it ends in (R22, R113). -/
theorem coilLead_applyStep (d : Direction) (s : State) (lead : Fin 4) :
    coilLead (applyStep d s) lead = (curPattern (applyStep d s)).getLsbD lead.val := by
  rw [coilLead, applyStep_coilOut]

/-- Settles O25: `pattern_for` reads the table of its mode, and a step command ends in `apply_step`, which drives the coils
with the pattern for the new phase. -/
theorem patternsComeFromTheStepTables : Obligations.PatternsComeFromTheStepTables := by
  refine ⟨fun _ => patternFor_full, patternFor_half, ?leads⟩
  case leads =>
    intro s i lead hi
    obtain ⟨d, hexec⟩ := exec_step_eq_applyStep hi s
    exact ⟨applyStep d s, hexec, coilLead_applyStep d s lead⟩

end Sys2Proof.Machine
end

section
/-! STEP_FWD and STEP_BWD move one phase (R112 to R115). -/

namespace Sys2Proof.Machine

/-- Each step command is `apply_step` in its own direction, which is never None (R114, R115). -/
theorem exec_step_direction {i : Instr} {d : Direction}
    (h : i = .stepFwd ∧ d = .forward ∨ i = .stepBwd ∧ d = .backward) (s : State) :
    d ≠ .none ∧ exec i s = .next (applyStep d s) := by
  rcases h with ⟨rfl, rfl⟩ | ⟨rfl, rfl⟩
  · exact ⟨by decide, rfl⟩
  · exact ⟨by decide, rfl⟩

/-- Settles O24: the command is `apply_step` in a known direction, and `applyStep_spec` says what that writes and keeps. -/
theorem stepsMoveOnePhase : Obligations.StepsMoveOnePhase := by
  refine ⟨rfl, rfl, ?moves⟩
  case moves =>
    intro s i d h
    obtain ⟨hd, hexec⟩ := exec_step_direction h s
    exact ⟨applyStep d s, hexec, applyStep_spec d hd s⟩

end Sys2Proof.Machine
end

section
/-! The Mode Controller's procedure `set_mode` by its target (R130 to R134, R140), and the three commands that call it. -/

namespace Sys2Proof.Machine

/-! ### What every call of `set_mode` leaves -/

@[simp] theorem setMode_mode (m : Mode) (s : State) : (setMode m s).mode = m := by
  rcases setMode_cases m s with ⟨rfl, h⟩ | ⟨-, rfl, h⟩ | ⟨-, rfl, h⟩ <;> rw [h] <;> rfl

/-- R140: neither a no-op nor a rescale touches the seek job, the decoder, the flags or the inputs. -/
theorem setMode_frame (m : Mode) (s : State) :
    SameSeek s (setMode m s) ∧ SameDecoder s (setMode m s) ∧ SameFlags s (setMode m s) ∧ SameInputs s (setMode m s) := by
  rcases setMode_cases m s with ⟨-, h⟩ | ⟨-, -, h⟩ | ⟨-, -, h⟩ <;> rw [h] <;> simp

/-! ### A switch announces the mode it ends in (R134) -/

/-- The coils and the emissions of `refreshCoil`, read off the state it ends in. -/
theorem refreshCoil_announces (s : State) :
    (refreshCoil s).coilOut = curPattern (refreshCoil s) ∧
    (refreshCoil s).out = s.out ++ announced (refreshCoil s) :=
  ⟨rfl, refreshCoil_out s⟩

theorem setMode_announces {m : Mode} {s : State} (hm : s.mode ≠ m) :
    (setMode m s).coilOut = patternFor m (setMode m s).phase ∧
    (setMode m s).out = s.out ++ announced (setMode m s) := by
  rcases setMode_cases m s with ⟨hsame, -⟩ | ⟨-, rfl, h⟩ | ⟨-, rfl, h⟩
  · exact absurd hsame hm
  · rw [h]; exact refreshCoil_announces (rescaleToHalf s)
  · rw [h]; exact refreshCoil_announces (rescaleToFull s)

/-! ### The rescale -/

theorem toNat_ofNat_of_lt {w n : Nat} (h : n < 2 ^ w) : (BitVec.ofNat w n).toNat = n := by
  rw [BitVec.toNat_ofNat, Nat.mod_eq_of_lt h]

/-- A halved register still fits its width. -/
theorem ofNat_toNat_half {w : Nat} (v : BitVec w) : (BitVec.ofNat w (v.toNat / 2)).toNat = v.toNat / 2 :=
  toNat_ofNat_of_lt ((Nat.div_le_self _ _).trans_lt v.isLt)

/-- Half to Full (R133). -/
theorem setMode_full_halves {s : State} (hm : s.mode = .half) :
    (setMode .full s).phase.toNat = s.phase.toNat / 2 ∧ (setMode .full s).pos.toNat = s.pos.toNat / 2 ∧
    (setMode .full s).mark.toNat = s.mark.toNat / 2 := by
  rw [setMode_toFull hm]
  exact ⟨ofNat_toNat_half s.phase, ofNat_toNat_half s.pos, ofNat_toNat_half s.mark⟩

/-- Full to Half (R132): the Full ranges leave room for the doubled values. -/
theorem setMode_half_doubles {s : State} (hr : RangesOk s) (hm : s.mode = .full) :
    (setMode .half s).phase.toNat = s.phase.toNat * 2 ∧ (setMode .half s).pos.toNat = s.pos.toNat * 2 ∧
    (setMode .half s).mark.toNat = s.mark.toNat * 2 := by
  obtain ⟨hphase, hpos, hmark⟩ := hr
  simp only [hm, phaseMod, posMod] at hphase hpos hmark
  rw [setMode_toHalf hm]
  exact ⟨toNat_ofNat_of_lt (by omega), toNat_ofNat_of_lt (by omega), toNat_ofNat_of_lt (by omega)⟩

/-- R132: each modulus doubles with its register, so no reduction is applied. -/
theorem setMode_half_ranges {s : State} (hr : RangesOk s) (hm : s.mode = .full) : RangesOk (setMode .half s) := by
  obtain ⟨hphase, hpos, hmark⟩ := setMode_half_doubles hr hm
  obtain ⟨hphase', hpos', hmark'⟩ := hr
  simp only [hm, phaseMod, posMod] at hphase' hpos' hmark'
  simp only [RangesOk, setMode_mode, phaseMod, posMod]
  omega

/-! ### The commands -/

theorem exec_setFull (s : State) : exec .setFull s = .next (setMode .full s) := rfl

theorem exec_setHalf (s : State) : exec .setHalf s = .next (setMode .half s) := rfl

theorem exec_modeToggle (s : State) : exec .modeToggle s = .next (setMode (otherMode s.mode) s) := rfl

theorem ne_otherMode (m : Mode) : m ≠ otherMode m := by cases m <;> decide

/-- Settles O30: the command is `set_mode(Half)`, which keeps a state in Half mode (R130) and doubles one in Full mode. -/
theorem setHalfDoubles : Obligations.SetHalfDoubles := by
  refine ⟨rfl, fun s hr => ⟨fun hm => ?noop, fun hm => ?switch⟩⟩
  case noop => rw [exec_setHalf, ← hm, setMode_same]
  case switch =>
    obtain ⟨hphase, hpos, hmark⟩ := setMode_half_doubles hr hm
    obtain ⟨hcoil, hout⟩ := setMode_announces (show s.mode ≠ .half by simp [hm])
    exact ⟨_, exec_setHalf s, setMode_mode .half s, hphase, hpos, hmark, hcoil, hout, setMode_half_ranges hr hm,
      setMode_frame .half s⟩

/-- Settles O31: the target is never the current mode, so `set_mode` always announces; the rescale is read off per mode. -/
theorem modeToggleAlwaysSwitches : Obligations.ModeToggleAlwaysSwitches := by
  refine ⟨rfl, fun s hr => ⟨_, exec_modeToggle s, fun hm => ?toHalf, fun hm => ?toFull, ?announces⟩⟩
  case toHalf => rw [hm]; exact ⟨setMode_mode .half s, setMode_half_doubles hr hm⟩
  case toFull => rw [hm]; exact ⟨setMode_mode .full s, setMode_full_halves hm⟩
  case announces =>
    obtain ⟨hcoil, hout⟩ := setMode_announces (ne_otherMode s.mode)
    exact ⟨by rw [setMode_mode]; exact hcoil, hout, setMode_frame (otherMode s.mode) s⟩

/-- Settles O29: the command is `set_mode(Full)`, which keeps a state in Full mode (R130) and halves one in Half mode. -/
theorem setFullHalves : Obligations.SetFullHalves := by
  refine ⟨rfl, fun s => ⟨fun hm => ?noop, fun hm => ?switch⟩⟩
  case noop => rw [exec_setFull, ← hm, setMode_same]
  case switch =>
    obtain ⟨hphase, hpos, hmark⟩ := setMode_full_halves hm
    obtain ⟨hcoil, hout⟩ := setMode_announces (show s.mode ≠ .full by simp [hm])
    exact ⟨_, exec_setFull s, setMode_mode .full s, hphase, hpos, hmark, hcoil, hout, setMode_frame .full s⟩

end Sys2Proof.Machine
end

section
/-! POLL decodes the encoder lines and jogs the motor (R152 to R157). -/

namespace Sys2Proof.Machine

/-- The state a POLL ends in: its own writes, then the jog they call for (R155, R156). -/
abbrev pollResult (s : State) : State := jog (quadDirection s.encPrev (polled s)) (pollWrites s)

theorem exec_poll (s : State) : exec .poll s = .next (pollResult s) := execPoll_eq s

/-- In every direction a jog touches only what a phase step writes (R113, R156). -/
theorem jog_frame (d : Direction) (s : State) :
    (jog d s).mark = s.mark ∧ SameDecoder s (jog d s) ∧ SameSeek s (jog d s) ∧ SameFlags s (jog d s) ∧
    SameInputs s (jog d s) := by
  by_cases hd : d = .none
  · subst hd; simp [jog]
  · rw [jog_of_ne_none hd]
    obtain ⟨-, -, -, hmark, hseek, hdecoder, hflags, hinputs⟩ := applyStep_spec d hd s
    exact ⟨hmark, hdecoder, hseek, hflags, hinputs⟩

/-- The decoder's registers after a POLL: the jog leaves them as they were written (R155). -/
theorem pollResult_decoder (s : State) :
    (pollResult s).encPrev = polled s ∧ (pollResult s).lastPollDir = quadDirection s.encPrev (polled s) := by
  obtain ⟨-, hdecoder, -⟩ := jog_frame (quadDirection s.encPrev (polled s)) (pollWrites s)
  exact hdecoder

/-- What a POLL leaves alone, and the three samples it takes (R152, R155). -/
theorem pollResult_frame (s : State) :
    (pollResult s).mark = s.mark ∧ SameSeek s (pollResult s) ∧ SameFlags s (pollResult s) ∧
    (pollResult s).events = s.events ∧ (pollResult s).encLines = s.encLines.drop 3 ∧
    (pollResult s).sampleCount = s.sampleCount + 3 := by
  obtain ⟨hmark, -, hseek, hflags, hinputs⟩ := jog_frame (quadDirection s.encPrev (polled s)) (pollWrites s)
  exact ⟨hmark, hseek, hflags, hinputs⟩

/-- A POLL that decodes None leaves the motor alone (R156). -/
theorem pollResult_sameMotor {s : State} (h : quadDirection s.encPrev (polled s) = .none) :
    SameMotor s (pollResult s) := by
  rw [pollResult, h]; simp [jog]

/-- A POLL that decodes a direction moves the motor one step that way and announces it (R113, R156). -/
theorem pollResult_jogs {s : State} (h : quadDirection s.encPrev (polled s) ≠ .none) :
    MovedBy (stepDelta (quadDirection s.encPrev (polled s))) s (pollResult s) ∧
    (pollResult s).coilOut = curPattern (pollResult s) ∧
    (pollResult s).out = s.out ++ announced (pollResult s) := by
  rw [pollResult, jog_of_ne_none h]
  obtain ⟨hmoved, hcoil, hout, -⟩ := applyStep_spec _ h (pollWrites s)
  exact ⟨hmoved, hcoil, hout⟩

/-- Settles O34: the registers hold the parity of the samples and the table's direction for it, and that direction decides
whether the motor jogs. -/
theorem pollDecodesAndJogs : Obligations.PollDecodesAndJogs := by
  refine ⟨rfl, fun s => ⟨pollResult s, exec_poll s, ?_⟩⟩
  obtain ⟨hprev, hdir⟩ := pollResult_decoder s
  obtain ⟨hbitA, hbitB⟩ := debounce_bits (lineAt s 0) (lineAt s 1) (lineAt s 2)
  rw [hprev, hdir]
  exact ⟨hbitA, hbitB, quadDirection_forward _ _, quadDirection_backward _ _, pollResult_sameMotor, pollResult_jogs,
    pollResult_frame s⟩

end Sys2Proof.Machine
end

section
/-! The Mark and Seek Scheduler: NOP, MARK, SEEK, SERVICE and the timer's ticks (R171 to R188). -/

namespace Sys2Proof.Machine

/-! ### Ticks (R182, R183, R184) -/

theorem tickEvent_disarmed_ne_next {s : State} (h : s.timerArmed = false) (t : State) : tickEvent s ≠ .next t := by
  rw [tickEvent_disarmed h]; exact nofun

/-- A tick neither reads nor writes the events still to come. -/
theorem tick_withEvents (s : State) (es : List Event) : tick { s with events := es } = { tick s with events := es } := by
  unfold tick tickDisarm tickCount
  split <;> split <;> rfl

/-- A step on a tick event while the timer is armed (R182, R183). -/
theorem step_tick_armed {s : State} {rest : List Event} (h : s.events = .tick :: rest) (ha : s.timerArmed = true) :
    step s = .next { tick s with events := rest } := by
  rw [step_cons h, ← tick_withEvents s rest]; exact tickEvent_armed ha

/-- Settles O7: the step is the tick event on the state without it, and `tick_spec` says what a tick does. -/
theorem tickConsumesOneUnit : Obligations.TickConsumesOneUnit := by
  intro s rest hs
  refine ⟨fun hdisarmed t => ?refused, fun harmed => ⟨_, step_tick_armed hs harmed, ?ticks⟩⟩
  case refused =>
    have hrefuses := tickEvent_disarmed_ne_next (s := { s with events := rest }) hdisarmed t
    rwa [step_cons hs]
  case ticks =>
    obtain ⟨hrem, hdue, hdue', hstop, hruns, hdir, hmark, hmotor, hdecoder, hflags, -, hlines, hcount⟩ := tick_spec s
    exact ⟨hrem, hdue, hdue', hstop, fun hpos => (hruns hpos).trans harmed, hdir, hmark, hmotor, hdecoder, hflags,
      rfl, hlines, hcount⟩

/-- Ticks keep R29: the timer stops with the tick that empties the count, and with no earlier one. -/
theorem tick_timerCoherent {s : State} (h : TimerCoherent s) : TimerCoherent (tick s) := by
  obtain ⟨hrem, -, -, hstop, hruns, -⟩ := tick_spec s
  rcases Nat.eq_zero_or_pos (tick s).seekRem.toNat with hzero | hpos
  · simp [hstop hzero, hzero]
  · simpa [hruns hpos, hpos] using h.mpr (by omega)

theorem iterate_tick_timerCoherent {s : State} (h : TimerCoherent s) (n : Nat) : TimerCoherent (tick^[n] s) :=
  Function.Iterate.rec (fun t => TimerCoherent t) h (fun _ => tick_timerCoherent) n

theorem iterate_tick_seekRem (n : Nat) (s : State) : (tick^[n] s).seekRem.toNat = s.seekRem.toNat - n := by
  induction n with
  | zero => rfl
  | succ n ih =>
    obtain ⟨hrem, -⟩ := tick_spec (tick^[n] s)
    rw [Function.iterate_succ_apply', hrem, ih, Nat.sub_sub]

/-- The last of some ticks still finds a unit to consume, so it raises `STEP_DUE`, raised already or not (R184). -/
theorem iterate_tick_stepDue {n : Nat} {s : State} (hn : 0 < n) (hle : n ≤ s.seekRem.toNat) :
    (tick^[n] s).stepDue = true := by
  obtain ⟨k, rfl⟩ := Nat.exists_eq_succ_of_ne_zero hn.ne'
  obtain ⟨-, hdue, -⟩ := tick_spec (tick^[k] s)
  rw [Function.iterate_succ_apply']
  exact hdue (by rw [iterate_tick_seekRem]; omega)

/-- What no number of ticks touches (R182). -/
theorem iterate_tick_frame (n : Nat) (s : State) :
    (tick^[n] s).seekDir = s.seekDir ∧ (tick^[n] s).mark = s.mark ∧ SameMotor s (tick^[n] s) ∧
    SameDecoder s (tick^[n] s) ∧ SameFlags s (tick^[n] s) ∧ SameInputs s (tick^[n] s) := by
  induction n with
  | zero => simp
  | succ n ih =>
    obtain ⟨-, -, -, -, -, hframe⟩ := tick_spec (tick^[n] s)
    rw [Function.iterate_succ_apply']
    simpa [ih] using hframe

/-- The timer stays armed through as many ticks as the count holds (R29, D15), so the run takes them all. -/
theorem run_ticks {n : Nat} {s : State} {rest : List Event} (hc : TimerCoherent s) (hle : n ≤ s.seekRem.toNat)
    (hs : s.events = List.replicate n .tick ++ rest) : core.run n s = .next (tick^[n] { s with events := rest }) := by
  induction n generalizing s with
  | zero => subst hs; rfl
  | succ n ih =>
    obtain ⟨hrem, -⟩ := tick_spec s
    have hstep := step_tick_armed hs (hc.mpr (by omega))
    calc core.run (n + 1) s
      _ = core.run n { tick s with events := List.replicate n .tick ++ rest } := run_succ hstep
      _ = .next (tick^[n] { tick s with events := rest }) := ih (tick_timerCoherent hc) (by simp only; omega) rfl
      _ = .next (tick^[n + 1] { s with events := rest }) := by rw [Function.iterate_succ_apply, tick_withEvents s rest]

/-- Settles O44: the run is `n` ticks in a row, of which the last raises `STEP_DUE`. -/
theorem ticksInARowCoalesce : Obligations.TicksInARowCoalesce := by
  intro s n rest hc hn hle hs
  obtain ⟨hdir, hmark, hmotor, hdecoder, hflags, hevents, -⟩ := iterate_tick_frame n { s with events := rest }
  exact ⟨_, run_ticks hc hle hs, iterate_tick_stepDue hn hle, iterate_tick_seekRem n _,
    iterate_tick_timerCoherent (s := { s with events := rest }) hc n, hdir, hmark, hmotor, hdecoder, hflags, hevents⟩

/-! ### SEEK (R172, R174, R175, R176) -/

theorem exec_seek (s : State) :
    exec .seek s = .next (startSeek (computeSeek s.pos.toNat s.mark.toNat (posMod s.mode)) s) := rfl

/-- The second branch of R172's pseudocode and the halving, in the form `computeSeek_spec` has them. -/
theorem halved_complement_eq {M diff₀ diff : Nat} {dir₀ dir : Direction}
    (hcomplement : if M / 2 < diff₀ then diff = M - diff₀ ∧ dir = flipDir dir₀ else diff = diff₀ ∧ dir = dir₀) :
    (if M / 2 < diff₀ then ((M - diff₀) / 2, flipDir dir₀) else (diff₀ / 2, dir₀)) = (diff / 2, dir) := by
  split_ifs at hcomplement ⊢ <;> rw [hcomplement.1, hcomplement.2]

/-- The two branches of R172's pseudocode, one after the other, give the job of `compute_seek`. -/
theorem computeSeek_eq_of_branches {p m M diff₀ diff : Nat} {dir₀ dir : Direction} (hp : p < M) (hm : m < M)
    (hbranch : if m ≤ p then diff₀ = p - m ∧ dir₀ = .forward else diff₀ = m - p ∧ dir₀ = .backward)
    (hcomplement : if M / 2 < diff₀ then diff = M - diff₀ ∧ dir = flipDir dir₀ else diff = diff₀ ∧ dir = dir₀) :
    computeSeek p m M = (diff / 2, dir) := by
  rw [computeSeek_spec hp hm]
  split at hbranch
  case isTrue hside =>
    obtain ⟨rfl, rfl⟩ := hbranch
    rw [if_pos hside]; exact halved_complement_eq hcomplement
  case isFalse hside =>
    obtain ⟨rfl, rfl⟩ := hbranch
    rw [if_neg hside]; exact halved_complement_eq hcomplement

/-- `SEEK_REM` is wide enough for every count the bound of R178 allows. -/
theorem startSeek_seekRem_toNat {job : Nat × Direction} {s : State} (h : job.1 ≤ posMod s.mode / 4) :
    (startSeek job s).seekRem.toNat = job.1 :=
  toNat_ofNat_of_lt (by have := posMod_le s.mode; omega)

/-- Everything that is not the job stays (R174). -/
theorem startSeek_frame (job : Nat × Direction) (s : State) :
    (startSeek job s).mark = s.mark ∧ SameMotor s (startSeek job s) ∧ SameDecoder s (startSeek job s) ∧
    SameFlags s (startSeek job s) ∧ SameInputs s (startSeek job s) := by simp

/-- Settles O38: the pseudocode's job is `compute_seek`'s, its count fits `SEEK_REM`, and `startSeek` writes the job alone. -/
theorem seekStartsTheComputedJob : Obligations.SeekStartsTheComputedJob := by
  refine ⟨rfl, ?_⟩
  rintro s _ _ _ diff₀ diff dir₀ dir rfl rfl rfl hp hm hbranch hcomplement
  have hjob := computeSeek_eq_of_branches hp hm hbranch hcomplement
  have hbound : diff / 2 ≤ posMod s.mode / 4 := by simpa [hjob] using computeSeek_bound hp hm
  have hexec : exec .seek s = .next (startSeek (diff / 2, dir) s) := by rw [exec_seek, hjob]
  exact ⟨hjob, hbound, _, hexec, startSeek_seekRem_toNat hbound, rfl, rfl, rfl, startSeek_frame _ s⟩

/-- A seek to the position the block is at starts the empty job (R176). -/
theorem exec_seek_at_mark {s : State} (h : s.pos = s.mark) : exec .seek s = .next (startSeek (0, .forward) s) := by
  rw [exec_seek, h, computeSeek_self]

/-- Settles O39: the empty job leaves the timer disarmed, and a disarmed timer admits no tick (R183). -/
theorem zeroLengthSeekDisarms : Obligations.ZeroLengthSeekDisarms := by
  intro s h
  obtain ⟨-, hmotor, -⟩ := startSeek_frame (0, .forward) s
  exact ⟨_, exec_seek_at_mark h, rfl, rfl, rfl, tickEvent_disarmed_ne_next rfl, hmotor⟩

/-- Settles O40: `compute_seek` reads none of the old job's registers, and `startSeek` overwrites all four of them. -/
theorem seekSupersedesTheOldJob : Obligations.SeekSupersedesTheOldJob :=
  fun s _ _ _ _ => ⟨_, exec_seek s, rfl⟩

/-! ### SERVICE (R185) -/

theorem exec_service_due {s : State} (h : s.stepDue = true) : exec .service s = .next (serviceDue s) := by
  simp [exec, execService, h]

theorem exec_service_none_due {s : State} (h : s.stepDue = false) : exec .service s = .next s := by
  simp [exec, execService, h]

/-- Settles O43: where a step is due the command is `serviceDue`, and `serviceDue_spec` says what that does. -/
theorem servicePerformsTheDueStep : Obligations.ServicePerformsTheDueStep := by
  refine ⟨rfl, fun s => ⟨exec_service_none_due, fun hdue hdir => ?due⟩⟩
  case due =>
    obtain ⟨u, hfirst, hsecond, hcoil, hhilite, hcleared, hout, hframe⟩ := serviceDue_spec hdir
    exact ⟨u, _, exec_service_due hdue, hfirst, hsecond, hcoil, hhilite, hcleared, hout, hframe⟩

/-! ### NOP and MARK (R171, R188) -/

/-- Settles O36: NOP answers the state it is given. -/
theorem nopChangesNothing : Obligations.NopChangesNothing := ⟨rfl, rfl, fun _ => rfl⟩

theorem exec_mark (s : State) : exec .mark s = .next (notify { s with mark := s.pos }) := rfl

/-- Settles O37: MARK is one write and one notification, which reads neither the mark nor whether it changed. -/
theorem markStoresThePosition : Obligations.MarkStoresThePosition := by
  refine ⟨rfl, fun s => ⟨_, exec_mark s, rfl, rfl, ?frame⟩⟩
  case frame => simp

end Sys2Proof.Machine
end

section
/-! The block has no trap, and every command completes in one event (R200). -/

namespace Sys2Proof.Machine

/-- A command word completes as its command does, or, reserved, by raising `CMD_ERR` (R75, R200, R202). -/
theorem step_command_next {s : State} {w : CmdWord} {lines : List EncSample} {rest : List Event}
    (h : s.events = .command w lines :: rest) : ∃ t, step s = .next t := by
  rcases Nat.lt_or_ge w.toNat 10 with hcommand | hreserved
  · obtain ⟨i, hi, -⟩ := decode_lt hcommand
    rw [step_command h hi]
    exact exec_next i _
  · exact ⟨_, step_reserved h hreserved⟩

/-- Settles O5: there is no fault to end in, `exec_next` goes over the ten commands, and the decoder's split of the words
carries that to the step. -/
theorem commandsNeverTrapAndAlwaysComplete : Obligations.CommandsNeverTrapAndAlwaysComplete := by
  refine ⟨?noFault, exec_next, fun _ _ _ _ => step_command_next⟩
  case noFault => exact fun _ r => nomatch r

end Sys2Proof.Machine
end

section
/-! The reset event (R230, R231), and why no tick outlives it. -/

namespace Sys2Proof.Machine

theorem step_reset {s : State} {rest : List Event} (h : s.events = .reset :: rest) :
    step s = .next (resetEvent { s with events := rest }) := step_cons h

/-- A tick event that meets a disarmed timer is not admitted (R183). -/
theorem step_tick_disarmed_ne_next {s : State} {rest : List Event} (h : s.events = .tick :: rest)
    (ha : s.timerArmed = false) (t : State) : step s ≠ .next t := by
  rw [step_cons h]
  exact tickEvent_disarmed_ne_next (s := { s with events := rest }) ha t

/-- The reset takes its timer from `State.reset`, where it is disarmed: a pending tick is cancelled (R230). -/
theorem resetEvent_admits_no_tick (s : State) (later : List Event) (t : State) :
    step { resetEvent s with events := .tick :: later } ≠ .next t :=
  step_tick_disarmed_ne_next (rest := later) rfl rfl t

/-- Settles O10: `resetEvent` is `State.reset` in all thirteen registers, keeps the emissions and the events still to come,
and leaves the timer disarmed. -/
theorem resetEventSetsResetValues : Obligations.ResetEventSetsResetValues := by
  intro s rest h
  refine ⟨_, step_reset h, rfl, rfl, rfl, rfl, rfl, rfl, rfl, rfl, rfl, rfl, rfl, rfl, rfl, ?out, ?events, ?noTick⟩
  case out | events => rfl
  case noTick => exact resetEvent_admits_no_tick _

end Sys2Proof.Machine
end

section
/-! Decoding and encoding agree on commands, words and programs (R70, R72, R77). -/

namespace Sys2Proof

@[simp] theorem decode_encode (i : Instr) : decode (encode i) = .ok i := by cases i <;> rfl

theorem eq_encode_of_decode {w : CmdWord} {i : Instr} (h : decode w = .ok i) : w = encode i := by
  rcases Nat.lt_or_ge w.toNat 10 with hcommand | hreserved
  · obtain ⟨j, hj, hw⟩ := decode_lt hcommand
    obtain rfl : i = j := Except.ok.inj (h.symm.trans hj)
    exact hw
  · rw [decode_reserved hreserved] at h; cases h

theorem decodeWords_map_encode (is : List Instr) : decodeWords (is.map encode) = .ok is := by
  induction is with
  | nil => rfl
  | cons i is ih => simp only [List.map_cons, decodeWords, decode_encode, ih]

namespace Machine

/-- The events of one line present the codes of its commands, and a stimulus line presents none. -/
theorem filterMap_eventWord_lineEvents (l : Line) :
    (lineEvents l).filterMap eventWord = (lineInstrs l).map encode := by
  cases l with
  | command i lines n => rw [lineEvents, lineInstrs, List.filterMap_replicate, List.map_replicate]; rfl
  | tick => rfl
  | reset => rfl

theorem filterMap_eventWord_programEvents (p : List Line) :
    (programEvents p).filterMap eventWord = programWords p := by
  rw [programEvents, programWords, programInstrs, List.filterMap_flatMap, List.map_flatMap]
  exact congrArg (p.flatMap ·) (funext filterMap_eventWord_lineEvents)

/-- Settles O3: commands decode back from their codes; a word that decodes is no reserved one, so it is its command's code;
programs follow command by command and line by line. -/
theorem encodingsRoundTrip : Obligations.EncodingsRoundTrip :=
  ⟨decode_encode, fun _ _ => eq_encode_of_decode,
    fun p => ⟨decodeWords_map_encode (programInstrs p), filterMap_eventWord_programEvents p⟩⟩

end Machine

end Sys2Proof
end

section
/-! What a step takes: the next command, or, with the host's events through, a tick or nothing (R57, R183, R214). -/

namespace Sys2Proof.Machine

/-- `step_command` at the code of a command. -/
theorem step_encode {s : State} {i : Instr} {lines : List EncSample} {rest : List Event}
    (h : s.events = .command (encode i) lines :: rest) :
    step s = exec i (driveLines lines { s with events := rest }) := step_command h (decode_encode i)

theorem withEvents_self {s : State} {es : List Event} (h : s.events = es) : { s with events := es } = s := by
  subst h; rfl

/-! ### The tick a step takes -/

@[simp] theorem tick_seekDir (s : State) : (tick s).seekDir = s.seekDir := by
  obtain ⟨-, -, -, -, -, hdir, -⟩ := tick_spec s; exact hdir

@[simp] theorem tick_out (s : State) : (tick s).out = s.out := by
  obtain ⟨-, -, -, -, -, -, -, ⟨-, -, -, -, hout⟩, -⟩ := tick_spec s; exact hout

@[simp] theorem tick_cmdErr (s : State) : (tick s).cmdErr = s.cmdErr := by
  obtain ⟨-, -, -, -, -, -, -, -, -, ⟨-, herr⟩, -⟩ := tick_spec s; exact herr

/-- Presented by the host or not, the tick of a step is the tick of the state it starts from (R183). -/
theorem tick_taken_eq {s s' : State}
    (h : s.events = [] ∧ s' = s ∨ ∃ rest, s.events = .tick :: rest ∧ s' = { s with events := rest }) :
    tick s' = { tick s with events := s.events.tail } := by
  rcases h with ⟨hs, rfl⟩ | ⟨rest, hs, rfl⟩
  · rw [hs, ← tick_withEvents, List.tail_nil, withEvents_self hs]
  · rw [hs, tick_withEvents, List.tail_cons]

/-! ### Steps by their event -/

/-- Settles O4: the state `step_command` runs the command on is the one the statement writes out. -/
theorem stepRunsTheDecodedCommand : Obligations.StepRunsTheDecodedCommand := by
  intro s w lines rest i hs hw
  calc step s
    _ = exec i (driveLines lines { s with events := rest }) := step_command hs hw
    _ = exec i { s with events := rest, encLines := lines } := rfl

/-- Settles O6: `step_nil_idle` is the statement. -/
theorem idleBlockKeepsItsState : Obligations.IdleBlockKeepsItsState := fun _ => step_nil_idle

/-- Settles O8: the step on a tick event is `tickEvent`, which reads the timer first. -/
theorem tickWhileDisarmedIsRefused : Obligations.TickWhileDisarmedIsRefused := by
  intro s rest hs hdisarmed
  rw [step_cons hs]
  exact tickEvent_disarmed (s := { s with events := rest }) hdisarmed

/-- Settles O9: the tick event put in front of the empty list is taken off again, and both steps are then the tick of `s`. -/
theorem idleHostLetsTheTimerTick : Obligations.IdleHostLetsTheTimerTick := by
  intro s hs harmed
  obtain ⟨hrem, -⟩ := tick_spec s
  have hidle := step_nil_armed hs harmed
  have hpresented : step { s with events := [.tick] } = .next (tick s) :=
    calc step { s with events := [.tick] }
      _ = tickEvent { s with events := [] } := step_cons (s := { s with events := [.tick] }) rfl
      _ = tickEvent s := by rw [withEvents_self hs]
      _ = .next (tick s) := tickEvent_armed harmed
  exact ⟨hidle.trans hpresented.symm, tick s, hidle, hrem⟩

end Sys2Proof.Machine
end

section
/-! The reset state: derived values, first steps and invariants (R27 to R32, R232, R234). -/

namespace Sys2Proof.Machine

/-- Settles O11: Full mode's constants, and the Full table read at phase 0. -/
theorem powerUpDerivedValues : Obligations.PowerUpDerivedValues := by
  refine ⟨rfl, rfl, rfl, rfl, ?pattern, ?status, ?angle, ?moduli⟩
  case pattern => exact patternFor_full (p := 0) (by decide)
  case status | angle | moduli => decide

/-- Settles O12: both commands are `apply_step`, Forward wraps from 0 to the top, and Backward wraps back. -/
theorem firstStepsEnergiseTheCoils : Obligations.FirstStepsEnergiseTheCoils := by
  refine ⟨rfl, applyStep .forward State.reset, applyStep .backward (applyStep .forward State.reset), rfl, rfl,
    by decide, by decide, ?wrapped, by decide, by decide, ?back⟩
  case wrapped => exact patternFor_full (p := 3) (by decide)
  case back => exact patternFor_full (p := 0) (by decide)

theorem invariant_resetEvent (s : State) : Invariant (resetEvent s) := by
  refine ⟨?ranges, rfl, ?timer, ?bound, ?direction, .inr ⟨rfl, rfl, rfl⟩⟩
  case ranges | timer | bound | direction => simp [resetEvent, State.reset, phaseMod, posMod]

/-- Settles O13: a reset event in the reset state leaves the reset state. -/
theorem resetStateSatisfiesInvariant : Obligations.ResetStateSatisfiesInvariant :=
  invariant_resetEvent State.reset

end Sys2Proof.Machine
end

section
/-! Moves of phase and position: their ranges, and when they close (R27, R118, R119). -/

namespace Sys2Proof.Machine

theorem phaseMod_pos (m : Mode) : 0 < phaseMod m := by cases m <;> decide

theorem posMod_pos (m : Mode) : 0 < posMod m := by cases m <;> decide

theorem phaseMod_dvd_posMod (m : Mode) : phaseMod m ∣ posMod m := by cases m <;> decide

/-- A remainder is in range, so a move keeps R27 whatever its length. -/
theorem movedBy_rangesOk {delta : Int} {s t : State} (h : MovedBy delta s t) (hmark : t.mark = s.mark)
    (hr : RangesOk s) : RangesOk t := by
  obtain ⟨hphase, hpos, hmode⟩ := h
  obtain ⟨-, -, hmark'⟩ := hr
  have := Int.emod_lt_of_pos (s.phase.toNat + delta) (Int.natCast_pos.mpr (phaseMod_pos s.mode))
  have := Int.emod_lt_of_pos (s.pos.toNat + delta) (Int.natCast_pos.mpr (posMod_pos s.mode))
  rw [RangesOk, hmode, hmark]
  exact ⟨by omega, by omega, hmark'⟩

theorem movedBy_zero {s : State} (hr : RangesOk s) : MovedBy 0 s s := by
  obtain ⟨hphase, hpos, -⟩ := hr
  refine ⟨?_, ?_, rfl⟩
  · rw [add_zero, Int.emod_eq_of_lt (by omega) (by omega)]
  · rw [add_zero, Int.emod_eq_of_lt (by omega) (by omega)]

/-- A register in range that moves by whole revolutions is where it was. -/
theorem eq_of_toNat_eq_add_emod {w M : Nat} {delta : Int} {v v' : BitVec w} (hv : v.toNat < M) (hd : (M : Int) ∣ delta)
    (h : (v'.toNat : Int) = (v.toNat + delta) % M) : v' = v := by
  obtain ⟨k, rfl⟩ := hd
  rw [Int.add_mul_emod_self_left, Int.emod_eq_of_lt (by omega) (by omega)] at h
  exact BitVec.eq_of_toNat_eq (Int.ofNat_inj.mp h)

theorem movedBy_phase_eq {delta : Int} {s t : State} (h : MovedBy delta s t) (hr : RangesOk s)
    (hd : (phaseMod s.mode : Int) ∣ delta) : t.phase = s.phase := by
  obtain ⟨hphase, -, -⟩ := hr
  obtain ⟨hmoved, -, -⟩ := h
  exact eq_of_toNat_eq_add_emod hphase hd hmoved

theorem movedBy_pos_eq {delta : Int} {s t : State} (h : MovedBy delta s t) (hr : RangesOk s)
    (hd : (posMod s.mode : Int) ∣ delta) : t.pos = s.pos := by
  obtain ⟨-, hpos, -⟩ := hr
  obtain ⟨-, hmoved, -⟩ := h
  exact eq_of_toNat_eq_add_emod hpos hd hmoved

/-! ### Round trip (R118) -/

/-- Settles O26: the two moves add up to a move by 0, and the pattern is a function of the mode and the phase. -/
theorem oppositeStepsCancel : Obligations.OppositeStepsCancel := by
  intro s i j hr hij
  obtain ⟨d, e, hi, hj, hsum⟩ : ∃ d e, (i = .stepFwd ∧ d = .forward ∨ i = .stepBwd ∧ d = .backward) ∧
      (j = .stepFwd ∧ e = .forward ∨ j = .stepBwd ∧ e = .backward) ∧ stepDelta d + stepDelta e = 0 := by
    rcases hij with ⟨rfl, rfl⟩ | ⟨rfl, rfl⟩
    · exact ⟨.forward, .backward, by decide⟩
    · exact ⟨.backward, .forward, by decide⟩
  obtain ⟨hd, hexec⟩ := exec_step_direction hi s
  obtain ⟨he, hexec'⟩ := exec_step_direction hj (applyStep d s)
  obtain ⟨hmoved, -⟩ := applyStep_spec d hd s
  obtain ⟨hmoved', -⟩ := applyStep_spec e he (applyStep d s)
  have hback := movedBy_trans hmoved hmoved'
  rw [hsum] at hback
  have hphase := movedBy_phase_eq hback hr (dvd_zero _)
  refine ⟨_, _, hexec, hexec', hphase, movedBy_pos_eq hback hr (dvd_zero _), ?pattern⟩
  case pattern => rw [curPattern, curPattern, hphase, applyStep_mode, applyStep_mode]

/-! ### Closure (R119) -/

/-- `n` step commands in a row are one move by `n` steps. -/
theorem run_steps {i : Instr} {d : Direction} (hi : i = .stepFwd ∧ d = .forward ∨ i = .stepBwd ∧ d = .backward)
    {lines : List EncSample} {rest : List Event} {n : Nat} {s : State} (hr : RangesOk s)
    (hs : s.events = List.replicate n (.command (encode i) lines) ++ rest) :
    ∃ t, core.run n s = .next t ∧ t.events = rest ∧ MovedBy (n * stepDelta d) s t := by
  induction n generalizing s with
  | zero => exact ⟨s, rfl, hs, by simpa using movedBy_zero hr⟩
  | succ n ih =>
    let s' := driveLines lines { s with events := List.replicate n (.command (encode i) lines) ++ rest }
    obtain ⟨hd, hexec⟩ := exec_step_direction hi s'
    obtain ⟨hmoved, -, -, hmark, -, -, -, hevents, -⟩ := applyStep_spec d hd s'
    obtain ⟨t, hrun, hrest, hmoved'⟩ := ih (movedBy_rangesOk hmoved hmark hr) hevents
    refine ⟨t, (run_succ ((step_encode hs).trans hexec)).trans hrun, hrest, ?_⟩
    have htotal : ((n + 1 : Nat) : Int) * stepDelta d = stepDelta d + n * stepDelta d := by push_cast; ring
    rw [htotal]
    exact movedBy_trans (s := s') hmoved hmoved'

/-- Settles O27: the steps add up to a whole number of revolutions, of the position and with it of the phase. -/
theorem fullRevolutionCloses : Obligations.FullRevolutionCloses := by
  intro s i lines rest n hr hi hs
  obtain ⟨d, hd⟩ : ∃ d : Direction, i = .stepFwd ∧ d = .forward ∨ i = .stepBwd ∧ d = .backward := by
    rcases hi with rfl | rfl
    · exact ⟨.forward, by decide⟩
    · exact ⟨.backward, by decide⟩
  obtain ⟨t, hrun, hrest, hmoved⟩ := run_steps hd hr hs
  refine ⟨t, hrun, hrest, fun hn => ⟨?phase, ?pos⟩, fun hn => ?phaseOnly⟩
  case phase =>
    exact movedBy_phase_eq hmoved hr (.mul_right (Int.natCast_dvd_natCast.mpr (hn ▸ phaseMod_dvd_posMod s.mode)) _)
  case pos => exact movedBy_pos_eq hmoved hr (hn ▸ dvd_mul_right _ _)
  case phaseOnly => exact movedBy_phase_eq hmoved hr (hn ▸ dvd_mul_right _ _)

end Sys2Proof.Machine
end

section
/-! Every step keeps the invariants (R27 to R32). -/

namespace Sys2Proof.Machine

/-- The half of the invariants that speaks of the motor: R27, R28 and R32. -/
def MotorInvariant (s : State) : Prop := RangesOk s ∧ PhaseCoherent s ∧ CoilCoherent s

/-- The half that speaks of the seek job: R29, R30 and R31. -/
def SeekInvariant (s : State) : Prop := TimerCoherent s ∧ SeekBounded s ∧ DirectionValid s

theorem invariant_iff (s : State) : Invariant s ↔ MotorInvariant s ∧ SeekInvariant s := by
  unfold Invariant MotorInvariant SeekInvariant; tauto

/-! ### The motor -/

theorem motorInvariant_of_sameMotor {s t : State} (h : SameMotor s t) (hmark : t.mark = s.mark) :
    MotorInvariant s → MotorInvariant t := by
  obtain ⟨hmode, hphase, hpos, hcoil, -⟩ := h
  simp only [MotorInvariant, RangesOk, PhaseCoherent, CoilCoherent, curPattern, hmode, hphase, hpos, hcoil, hmark]
  exact id

/-- A move that ends with the coils driven keeps R27, R28 and R32, whatever its length. -/
theorem motorInvariant_of_movedBy {delta : Int} {s t : State} (h : MovedBy delta s t) (hmark : t.mark = s.mark)
    (hcoil : t.coilOut = curPattern t) (hs : MotorInvariant s) : MotorInvariant t := by
  obtain ⟨hr, hc, -⟩ := hs
  exact ⟨movedBy_rangesOk h hmark hr, movedBy_coherent h hc, .inl hcoil⟩

theorem motorInvariant_applyStep {d : Direction} (hd : d ≠ .none) {s : State} (hs : MotorInvariant s) :
    MotorInvariant (applyStep d s) := by
  obtain ⟨hmoved, hcoil, -, hmark, -⟩ := applyStep_spec d hd s
  exact motorInvariant_of_movedBy hmoved hmark hcoil hs

/-- Half to Full: each modulus halves with its register, odd values or even (R133). -/
theorem setMode_full_ranges {s : State} (hr : RangesOk s) (hm : s.mode = .half) : RangesOk (setMode .full s) := by
  obtain ⟨hphase, hpos, hmark⟩ := setMode_full_halves hm
  obtain ⟨hphase', hpos', hmark'⟩ := hr
  simp only [hm, phaseMod, posMod] at hphase' hpos' hmark'
  simp only [RangesOk, setMode_mode, phaseMod, posMod]
  omega

/-- The remainder of R28 doubles and halves with the position. -/
theorem setMode_phaseCoherent (m : Mode) {s : State} (hr : RangesOk s) (hc : PhaseCoherent s) :
    PhaseCoherent (setMode m s) := by
  rcases setMode_cases m s with ⟨-, h⟩ | ⟨hm, rfl, -⟩ | ⟨hm, rfl, -⟩
  · rwa [h]
  · obtain ⟨hphase, hpos, -⟩ := setMode_half_doubles hr hm
    simp only [PhaseCoherent, hm, setMode_mode, phaseMod] at hc ⊢
    omega
  · obtain ⟨hphase, hpos, -⟩ := setMode_full_halves hm
    simp only [PhaseCoherent, hm, setMode_mode, phaseMod] at hc ⊢
    omega

theorem setMode_rangesOk (m : Mode) {s : State} (hr : RangesOk s) : RangesOk (setMode m s) := by
  rcases setMode_cases m s with ⟨-, h⟩ | ⟨hm, rfl, -⟩ | ⟨hm, rfl, -⟩
  · rwa [h]
  · exact setMode_half_ranges hr hm
  · exact setMode_full_ranges hr hm

theorem setMode_coilOut {m : Mode} {s : State} (hm : s.mode ≠ m) :
    (setMode m s).coilOut = curPattern (setMode m s) := by
  obtain ⟨hcoil, -⟩ := setMode_announces hm
  rw [hcoil, curPattern, setMode_mode]

theorem motorInvariant_setMode (m : Mode) {s : State} (hs : MotorInvariant s) : MotorInvariant (setMode m s) := by
  by_cases hm : s.mode = m
  · rwa [← hm, setMode_same]
  · obtain ⟨hr, hc, -⟩ := hs
    exact ⟨setMode_rangesOk m hr, setMode_phaseCoherent m hr hc, .inl (setMode_coilOut hm)⟩

/-- MARK copies a legal position (R171). -/
theorem motorInvariant_mark {s : State} (hs : MotorInvariant s) : MotorInvariant (notify { s with mark := s.pos }) := by
  obtain ⟨⟨hphase, hpos, -⟩, hc, hcoil⟩ := hs
  exact ⟨⟨hphase, hpos, hpos⟩, hc, hcoil⟩

/-! ### The seek job -/

theorem seekInvariant_of_sameSeek {s t : State} (h : SameSeek s t) : SeekInvariant s → SeekInvariant t := by
  obtain ⟨hrem, hdir, hdue, harmed⟩ := h
  simp only [SeekInvariant, TimerCoherent, SeekBounded, DirectionValid, hrem, hdir, hdue, harmed]
  exact id

theorem startSeek_timerCoherent {job : Nat × Direction} {s : State} (h : job.1 ≤ posMod s.mode / 4) :
    TimerCoherent (startSeek job s) := by
  rw [TimerCoherent, startSeek_seekRem_toNat h, startSeek_timerArmed, armedFor, decide_eq_true_iff]

/-- A quarter of a revolution is at most 24, and `compute_seek` has a direction even for the empty job (R172, R178). -/
theorem seekInvariant_startSeek {s : State} (hr : RangesOk s) :
    SeekInvariant (startSeek (computeSeek s.pos.toNat s.mark.toNat (posMod s.mode)) s) := by
  obtain ⟨-, hpos, hmark⟩ := hr
  have hbound := computeSeek_bound hpos hmark
  have := posMod_le s.mode
  refine ⟨startSeek_timerCoherent hbound, ?bound, fun _ => computeSeek_dir_ne_none _ _ _⟩
  case bound => rw [SeekBounded, startSeek_seekRem_toNat hbound]; omega

/-- A step that a tick makes due was a tick still to come, so its direction is known (R31, R182). -/
theorem seekInvariant_tick {s : State} (hs : SeekInvariant s) : SeekInvariant (tick s) := by
  obtain ⟨hc, hbound, hvalid⟩ := hs
  obtain ⟨hrem, -, hkept, -, -, hdir, -⟩ := tick_spec s
  refine ⟨tick_timerCoherent hc, by rw [SeekBounded, hrem]; omega, fun h => ?_⟩
  rw [hdir]
  rcases Nat.eq_zero_or_pos s.seekRem.toNat with hzero | hpos
  · rw [hkept hzero, hrem] at h
    exact hvalid (h.imp_right (by omega))
  · exact hvalid (.inr hpos)

/-! ### Commands and steps -/

/-- SERVICE: two steps in the job's direction, which is known while one is due (R31, R185). -/
theorem invariant_serviceDue {s : State} (hs : Invariant s) (hdue : s.stepDue = true) : Invariant (serviceDue s) := by
  rw [invariant_iff] at hs ⊢
  obtain ⟨hmotor, htimer, hbound, hvalid⟩ := hs
  have hd := hvalid (.inl hdue)
  obtain ⟨u, hfirst, hsecond, hcoil, -, -, -, hrem, hdir, harmed, hmark, -⟩ := serviceDue_spec hd
  refine ⟨motorInvariant_of_movedBy (movedBy_trans hfirst hsecond) hmark hcoil hmotor, ?timer, ?bound, fun _ => hdir ▸ hd⟩
  case timer => rw [TimerCoherent, hrem, harmed]; exact htimer
  case bound => rw [SeekBounded, hrem]; exact hbound

theorem exec_mode_command {i : Instr} (h : i = .setFull ∨ i = .setHalf ∨ i = .modeToggle) (s : State) :
    ∃ m, exec i s = .next (setMode m s) := by
  rcases h with rfl | rfl | rfl
  exacts [⟨_, exec_setFull s⟩, ⟨_, exec_setHalf s⟩, ⟨_, exec_modeToggle s⟩]

theorem exec_keeps_invariant {i : Instr} {s t : State} (hs : Invariant s) (h : exec i s = .next t) : Invariant t := by
  obtain ⟨hmotor, hseek⟩ := (invariant_iff s).mp hs
  rcases exec_cases h with rfl | ⟨d, hd, rfl, -⟩ | ⟨hi, -⟩ | ⟨-, rfl⟩ | ⟨-, rfl⟩ | ⟨-, hpoll⟩ | ⟨-, hdue, rfl⟩
  · exact hs
  · exact (invariant_iff _).mpr ⟨motorInvariant_applyStep hd hmotor, seekInvariant_of_sameSeek (by simp) hseek⟩
  · obtain ⟨m, hm⟩ := exec_mode_command hi s
    obtain ⟨hframe, -⟩ := setMode_frame m s
    obtain rfl : t = setMode m s := Host.Outcome.next.inj (h.symm.trans hm)
    exact (invariant_iff _).mpr ⟨motorInvariant_setMode m hmotor, seekInvariant_of_sameSeek hframe hseek⟩
  · exact (invariant_iff _).mpr ⟨motorInvariant_mark hmotor, hseek⟩
  · exact (invariant_iff _).mpr ⟨hmotor, seekInvariant_startSeek hs.1⟩
  · have hwrites : MotorInvariant (pollWrites s) := hmotor
    rcases hpoll with rfl | ⟨d, hd, rfl⟩
    · exact hs
    · exact (invariant_iff _).mpr ⟨motorInvariant_applyStep hd hwrites, seekInvariant_of_sameSeek (by simp) hseek⟩
  · exact invariant_serviceDue hs hdue

theorem tick_keeps_invariant {s : State} (hs : Invariant s) : Invariant (tick s) := by
  obtain ⟨hmotor, hseek⟩ := (invariant_iff s).mp hs
  obtain ⟨-, -, -, -, -, -, hmark, hsame, -⟩ := tick_spec s
  exact (invariant_iff _).mpr ⟨motorInvariant_of_sameMotor hsame hmark hmotor, seekInvariant_tick hseek⟩

/-- Settles O14: each event keeps the invariants; taking it off the list, driving the lines and raising `CMD_ERR` write
nothing they read. -/
theorem everyStepKeepsInvariant : Obligations.EveryStepKeepsInvariant := by
  intro s t hs h
  rcases step_cases h with ⟨-, -, rfl⟩ | ⟨s', hs', -, rfl⟩ | ⟨rest, -, rfl⟩ | ⟨w, lines, rest, -, -, rfl⟩ |
    ⟨i, lines, rest, -, hexec⟩
  · exact hs
  · rw [tick_taken_eq hs']; exact tick_keeps_invariant hs
  · exact invariant_resetEvent _
  · exact hs
  · exact exec_keeps_invariant (s := driveLines lines { s with events := rest }) hs hexec

end Sys2Proof.Machine
end

section
/-! What commands and steps emit (R36, R210). -/

namespace Sys2Proof.Machine

/-- What a command owes its observers for going from `s` to `t` with `new` emitted (R36, R210): the statement of
ChangesAreAnnounced for one list of emissions. -/
def Announces (s t : State) (new : List Emission) : Prop :=
  t.out = s.out ++ new ∧
  (t.pos ≠ s.pos ∨ t.mode ≠ s.mode ∨ t.mark ≠ s.mark → .notify t.pos (angleQ2 t) t.mode ∈ new) ∧
  (t.phase ≠ s.phase ∨ t.mode ≠ s.mode ∨ t.coilOut ≠ s.coilOut → .coil t.coilOut ∈ new ∧ t.coilOut = curPattern t)

/-- What moves and switches end with, COIL and NOTIFY of the state they end in, covers every change. -/
theorem announces_of_announced {s t : State} {new : List Emission} (hout : t.out = s.out ++ new)
    (hcoil : t.coilOut = curPattern t) (hmem : announced t ⊆ new) : Announces s t new :=
  ⟨hout, fun _ => hmem (by simp), fun _ => ⟨hmem (by simp [hcoil]), hcoil⟩⟩

theorem announces_nil_of_sameMotor {s t : State} (h : SameMotor s t) (hmark : t.mark = s.mark) : Announces s t [] := by
  obtain ⟨hmode, hphase, hpos, hcoil, hout⟩ := h
  simp [Announces, hmode, hphase, hpos, hcoil, hout, hmark]

theorem setMode_announces_changes (m : Mode) (s : State) : ∃ new, Announces s (setMode m s) new := by
  by_cases hm : s.mode = m
  · rw [← hm, setMode_same]
    exact ⟨[], announces_nil_of_sameMotor (by simp) rfl⟩
  · obtain ⟨-, hout⟩ := setMode_announces hm
    exact ⟨_, announces_of_announced hout (setMode_coilOut hm) (List.Subset.refl _)⟩

/-- In every direction, None among them, SERVICE announces both its steps and then toggles the highlight (R185). -/
theorem serviceDue_out (s : State) :
    (serviceDue s).out = s.out ++
      (announced (applyStep s.seekDir s) ++ announced (serviceDue s) ++ [.hilite (serviceDue s).hilite]) := by
  simp [serviceDue_eq, applyStep_out, curPattern, angleQ2]

theorem serviceDue_coilOut (s : State) : (serviceDue s).coilOut = curPattern (serviceDue s) := by
  rw [serviceDue_eq]; exact applyStep_coilOut s.seekDir (applyStep s.seekDir s)

theorem exec_announces {i : Instr} {s t : State} (h : exec i s = .next t) : ∃ new, Announces s t new := by
  rcases exec_cases h with rfl | ⟨d, -, rfl, -⟩ | ⟨hi, -⟩ | ⟨-, rfl⟩ | ⟨-, rfl⟩ | ⟨-, hpoll⟩ | ⟨-, -, rfl⟩
  · exact ⟨[], announces_nil_of_sameMotor (by simp) rfl⟩
  · exact ⟨_, announces_of_announced (applyStep_out d s) rfl (List.Subset.refl _)⟩
  · obtain ⟨m, hm⟩ := exec_mode_command hi s
    obtain rfl : t = setMode m s := Host.Outcome.next.inj (h.symm.trans hm)
    exact setMode_announces_changes m s
  · exact ⟨[.notify s.pos (angleQ2 s) s.mode], rfl, fun _ => List.mem_singleton.mpr rfl, by simp⟩
  · exact ⟨[], announces_nil_of_sameMotor (by simp) rfl⟩
  · rcases hpoll with rfl | ⟨d, -, rfl⟩
    · exact ⟨[], announces_nil_of_sameMotor (by simp) rfl⟩
    · exact ⟨_, announces_of_announced (applyStep_out d (pollWrites s)) rfl (List.Subset.refl _)⟩
  · exact ⟨_, announces_of_announced (serviceDue_out s) (serviceDue_coilOut s) (by simp)⟩

/-- Settles O16: `Announces` is the statement's body, and every way a command ends meets it. -/
theorem changesAreAnnounced : Obligations.ChangesAreAnnounced := fun _ _ _ => exec_announces

/-- Settles O15: a command appends what it announces, and no other step writes the emissions. -/
theorem outputSequenceOnlyGrows : Obligations.OutputSequenceOnlyGrows := by
  intro s t h
  rcases step_cases h with ⟨-, -, rfl⟩ | ⟨s', hs', -, rfl⟩ | ⟨rest, -, rfl⟩ | ⟨w, lines, rest, hs, -, rfl⟩ |
    ⟨i, lines, rest, hs, hexec⟩
  · exact ⟨List.prefix_rfl, fun _ _ => rfl⟩
  · rw [tick_taken_eq hs']
    exact ⟨by simp, fun _ _ => tick_out s⟩
  · exact ⟨List.prefix_rfl, fun _ _ => rfl⟩
  · exact ⟨List.prefix_rfl, fun _ _ => rfl⟩
  · obtain ⟨new, hout, -⟩ := exec_announces hexec
    exact ⟨⟨new, hout.symm⟩, by simp [hs]⟩

end Sys2Proof.Machine
end

section
/-! What each command writes, and what each event can change (R24, R31, R182, R202). -/

namespace Sys2Proof.Machine

/-- SERVICE writes what a phase step writes, and `STEP_DUE`, `HILITE` and the emissions (R185). -/
theorem serviceDue_frame (s : State) :
    (serviceDue s).mode = s.mode ∧ (serviceDue s).mark = s.mark ∧ (serviceDue s).seekRem = s.seekRem ∧
    (serviceDue s).seekDir = s.seekDir ∧ (serviceDue s).timerArmed = s.timerArmed ∧ SameDecoder s (serviceDue s) ∧
    (serviceDue s).cmdErr = s.cmdErr ∧ SameInputs s (serviceDue s) := by
  rw [serviceDue_eq]; simp

/-- Settles O19: each way a command ends writes the registers of its own commands and no others. -/
theorem registersChangeOnlyByTheirCommands : Obligations.RegistersChangeOnlyByTheirCommands := by
  intro i s t h
  rcases exec_cases h with rfl | ⟨d, -, rfl, hi⟩ | ⟨hi, hmode⟩ | ⟨rfl, rfl⟩ | ⟨rfl, rfl⟩ | ⟨rfl, hpoll⟩ | ⟨rfl, -, rfl⟩
  · simp
  · rcases hi with rfl | rfl <;> simp
  · rcases hmode with ⟨-, rfl⟩ | ⟨-, rfl⟩ <;> rcases hi with rfl | rfl | rfl <;> simp
  · simp
  · simp
  · rcases hpoll with rfl | ⟨d, -, rfl⟩ <;> simp
  · simp [serviceDue_frame s]

/-- What no command but SEEK writes, and what no command writes. -/
theorem exec_seek_signals {i : Instr} {s t : State} (h : exec i s = .next t) :
    (i ≠ .seek → t.seekRem = s.seekRem ∧ t.seekDir = s.seekDir ∧ t.timerArmed = s.timerArmed) ∧
    t.cmdErr = s.cmdErr ∧ t.events = s.events := by
  obtain ⟨-, -, -, hseek, -, -, -, herr, hevents⟩ := registersChangeOnlyByTheirCommands i s t h
  exact ⟨fun hi => by simpa [not_or] using mt hseek hi, herr, hevents⟩

/-- Settles O20: a reset clears the flag, a reserved code sets it, and every other event keeps it. -/
theorem commandErrorIsSticky : Obligations.CommandErrorIsSticky := by
  intro s t h
  rcases step_cases h with ⟨-, -, rfl⟩ | ⟨s', hs', -, rfl⟩ | ⟨rest, hs, rfl⟩ | ⟨w, lines, rest, hs, hw, rfl⟩ |
    ⟨i, lines, rest, -, hexec⟩
  · simp_all
  · rw [tick_taken_eq hs']; simp_all
  · exact ⟨fun _ hset => absurd hset Bool.false_ne_true, fun _ _ => ⟨rest, hs⟩⟩
  · exact ⟨fun _ _ => ⟨w, lines, rest, hs, hw⟩, fun _ hcleared => absurd hcleared (by simp)⟩
  · obtain ⟨-, herr, -⟩ := exec_seek_signals hexec
    simp_all

/-- Settles O21: only SEEK writes the timer among the commands; a tick and a reset can only disarm it. -/
theorem timerIsArmedBySeekAlone : Obligations.TimerIsArmedBySeekAlone := by
  intro s t h
  rcases step_cases h with ⟨-, -, rfl⟩ | ⟨s', hs', harmed, rfl⟩ | ⟨rest, hs, rfl⟩ | ⟨w, lines, rest, -, -, rfl⟩ |
    ⟨i, lines, rest, hs, hexec⟩
  · simp_all
  · refine ⟨fun hdisarmed => absurd (harmed.symm.trans hdisarmed) (by decide), fun _ _ => ?_⟩
    rcases hs' with ⟨hs, -⟩ | ⟨rest, hs, -⟩
    · exact .inl hs
    · exact .inr ⟨_, rest, hs, .inl rfl⟩
  · exact ⟨fun _ hset => absurd hset Bool.false_ne_true, fun _ _ => .inr ⟨_, rest, hs, .inr (.inl rfl)⟩⟩
  · simp_all
  · by_cases hi : i = .seek
    · subst hi
      exact ⟨fun _ _ => ⟨lines, rest, hs⟩, fun _ _ => .inr ⟨_, rest, hs, .inr (.inr ⟨lines, rfl⟩)⟩⟩
    · obtain ⟨hkept, -⟩ := exec_seek_signals hexec
      obtain ⟨-, -, harmed⟩ := hkept hi
      simp_all

theorem exec_seek_dir_ne_none {s t : State} (h : exec .seek s = .next t) : t.seekDir ≠ .none := by
  cases h; exact computeSeek_dir_ne_none _ _ _

/-- Settles O22: SEEK takes its direction from `compute_seek`, which always has one, and no event but a reset and SEEK
writes it. -/
theorem seekDirectionStaysKnown : Obligations.SeekDirectionStaysKnown := by
  refine ⟨fun s => ⟨_, exec_seek s, exec_seek_dir_ne_none (exec_seek s)⟩, fun s t h hknown hnone => ?_⟩
  rcases step_cases h with ⟨-, -, rfl⟩ | ⟨s', hs', -, rfl⟩ | ⟨rest, hs, -⟩ | ⟨w, lines, rest, -, -, rfl⟩ |
    ⟨i, lines, rest, -, hexec⟩
  · exact absurd hnone hknown
  · rw [tick_taken_eq hs'] at hnone
    exact absurd ((tick_seekDir s).symm.trans hnone) hknown
  · exact ⟨rest, hs⟩
  · exact absurd hnone hknown
  · by_cases hi : i = .seek
    · subst hi; exact absurd hnone (exec_seek_dir_ne_none hexec)
    · obtain ⟨hkept, -⟩ := exec_seek_signals hexec
      obtain ⟨-, hdir, -⟩ := hkept hi
      exact absurd (hdir.symm.trans hnone) hknown

end Sys2Proof.Machine
end

section
/-! Nothing reads the emissions back, and only POLL reads the encoder lines (R209, R210). -/

namespace Sys2Proof.Machine

/-- `s` with emissions `before` its own, and with other line values and another sample count. -/
def reframe (before : List Emission) (lines : List EncSample) (n : Nat) (s : State) : State :=
  { s with out := before ++ s.out, encLines := lines, sampleCount := n }

/-! ### The operations commute with `reframe` -/

section
variable (before : List Emission) (lines : List EncSample) (n : Nat) (s : State)

theorem emit_reframe (e : Emission) : emit e (reframe before lines n s) = reframe before lines n (emit e s) := by
  simp [emit, reframe]

theorem notify_reframe : notify (reframe before lines n s) = reframe before lines n (notify s) :=
  emit_reframe before lines n s _

theorem refreshCoil_reframe : refreshCoil (reframe before lines n s) = reframe before lines n (refreshCoil s) :=
  calc refreshCoil (reframe before lines n s)
    _ = notify (emit (.coil (curPattern s)) (reframe before lines n { s with coilOut := curPattern s })) := rfl
    _ = reframe before lines n (refreshCoil s) := by rw [emit_reframe, notify_reframe, refreshCoil]

theorem applyStep_reframe (d : Direction) :
    applyStep d (reframe before lines n s) = reframe before lines n (applyStep d s) := by
  have hphase : phaseStep d (reframe before lines n s) = reframe before lines n (phaseStep d s) := by cases d <;> rfl
  rw [applyStep, hphase, refreshCoil_reframe, applyStep]

theorem jog_reframe (d : Direction) : jog d (reframe before lines n s) = reframe before lines n (jog d s) := by
  by_cases hd : d = .none
  · subst hd; rfl
  · rw [jog_of_ne_none hd, jog_of_ne_none hd, applyStep_reframe]

theorem setMode_reframe (m : Mode) : setMode m (reframe before lines n s) = reframe before lines n (setMode m s) := by
  rcases setMode_cases m s with ⟨rfl, h⟩ | ⟨hm, rfl, h⟩ | ⟨hm, rfl, h⟩
  · rw [h]; exact setMode_same (reframe before lines n s)
  · rw [h, ← refreshCoil_reframe]; exact setMode_toHalf hm
  · rw [h, ← refreshCoil_reframe]; exact setMode_toFull hm

theorem serviceDue_reframe : serviceDue (reframe before lines n s) = reframe before lines n (serviceDue s) := by
  have hdir : (reframe before lines n s).seekDir = s.seekDir := rfl
  rw [serviceDue_eq, serviceDue_eq, hdir, applyStep_reframe, applyStep_reframe]
  exact congrArg clearStepDue (emit_reframe before lines n (toggleHilite _) _)

theorem exec_reframe {i : Instr} {s t : State} (hi : i ≠ .poll) (h : exec i s = .next t) :
    exec i (reframe before lines n s) = .next (reframe before lines n t) := by
  cases i with
  | nop | seek => cases h; rfl
  | stepFwd | stepBwd => cases h; exact congrArg _ (applyStep_reframe before lines n s _)
  | setFull | setHalf | modeToggle => cases h; exact congrArg _ (setMode_reframe before lines n s _)
  | mark => cases h; exact congrArg Host.Outcome.next (notify_reframe before lines n { s with mark := s.pos })
  | poll => exact absurd rfl hi
  | service =>
    cases hdue : s.stepDue with
    | true =>
      rw [exec_service_due hdue] at h; cases h
      rw [← serviceDue_reframe]; exact exec_service_due hdue
    | false =>
      rw [exec_service_none_due hdue] at h; cases h
      exact exec_service_none_due hdue

end

theorem exec_keeps_encoder {i : Instr} {s t : State} (hi : i ≠ .poll) (h : exec i s = .next t) :
    t.encLines = s.encLines ∧ t.sampleCount = s.sampleCount := by
  rcases exec_cases h with rfl | ⟨d, -, rfl, -⟩ | ⟨-, hmode⟩ | ⟨-, rfl⟩ | ⟨-, rfl⟩ | ⟨hpoll, -⟩ | ⟨-, -, rfl⟩
  · simp
  · simp
  · rcases hmode with ⟨-, rfl⟩ | ⟨-, rfl⟩ <;> simp
  · simp
  · simp
  · exact absurd hpoll hi
  · simp [serviceDue_frame s]

/-- Settles O18: the command keeps the lines and the count, and commutes with `reframe`, here with no emissions added. -/
theorem onlyPollReadsTheEncoder : Obligations.OnlyPollReadsTheEncoder := by
  intro i s lines n hi
  obtain ⟨t, ht⟩ := exec_next i s
  obtain ⟨hlines, hcount⟩ := exec_keeps_encoder hi ht
  exact ⟨t, ht, hlines, hcount, exec_reframe [] lines n hi ht⟩

/-! ### The emissions alone -/

/-- `s` with emissions `before` its own. -/
def prependOut (before : List Emission) (s : State) : State := { s with out := before ++ s.out }

theorem reframe_eq_prependOut {before : List Emission} {lines : List EncSample} {n : Nat} {s : State}
    (hlines : s.encLines = lines) (hcount : s.sampleCount = n) : reframe before lines n s = prependOut before s := by
  subst hlines hcount; rfl

theorem exec_prependOut (before : List Emission) {i : Instr} {s t : State} (h : exec i s = .next t) :
    exec i (prependOut before s) = .next (prependOut before t) := by
  by_cases hi : i = .poll
  · subst hi
    obtain ⟨-, -, -, -, hlines, hcount⟩ := pollResult_frame s
    obtain rfl : pollResult s = t := Host.Outcome.next.inj ((exec_poll s).symm.trans h)
    calc exec .poll (prependOut before s)
      _ = .next (pollResult (prependOut before s)) := exec_poll _
      _ = .next (reframe before (s.encLines.drop 3) (s.sampleCount + 3) (pollResult s)) :=
        congrArg _ (jog_reframe before (s.encLines.drop 3) (s.sampleCount + 3) (pollWrites s) _)
      _ = .next (prependOut before (pollResult s)) := by rw [reframe_eq_prependOut hlines hcount]
  · obtain ⟨hlines, hcount⟩ := exec_keeps_encoder hi h
    rw [← reframe_eq_prependOut hlines hcount]
    exact exec_reframe before s.encLines s.sampleCount hi h

theorem tick_prependOut (before : List Emission) (s : State) :
    tick (prependOut before s) = prependOut before (tick s) := by
  unfold prependOut tick tickDisarm tickCount
  split <;> split <;> rfl

/-- An outcome with `f` applied to its next state. -/
def mapNext (f : State → State) : Host.Outcome State Fault Refusal → Host.Outcome State Fault Refusal
  | .next t => .next (f t)
  | .fault r => .fault r
  | .refused r => .refused r

theorem commandEvent_prependOut (before : List Emission) (w : CmdWord) (lines : List EncSample) (s : State) :
    commandEvent w lines (prependOut before s) = mapNext (prependOut before) (commandEvent w lines s) := by
  rcases Nat.lt_or_ge w.toNat 10 with hcommand | hreserved
  · obtain ⟨i, hi, -⟩ := decode_lt hcommand
    obtain ⟨t, ht⟩ := exec_next i (driveLines lines s)
    simp only [commandEvent, hi, ht, mapNext]
    exact exec_prependOut before ht
  · simp only [commandEvent, decode_reserved hreserved]; rfl

theorem eventStep_prependOut (before : List Emission) (e : Event) (s : State) :
    eventStep e (prependOut before s) = mapNext (prependOut before) (eventStep e s) := by
  cases e with
  | command w lines => exact commandEvent_prependOut before w lines s
  | tick =>
    cases harmed : s.timerArmed with
    | true => simp only [eventStep, tickEvent_armed harmed, mapNext, ← tick_prependOut]; exact tickEvent_armed harmed
    | false => simp only [eventStep, tickEvent_disarmed harmed, mapNext]; exact tickEvent_disarmed harmed
  | reset => rfl

theorem step_prependOut (before : List Emission) (s : State) :
    step (prependOut before s) = mapNext (prependOut before) (step s) := by
  cases hs : s.events with
  | cons e rest =>
    rw [step_cons hs, ← eventStep_prependOut]
    exact step_cons (s := prependOut before s) hs
  | nil =>
    cases harmed : s.timerArmed with
    | true =>
      rw [step_nil_armed hs harmed, mapNext, ← tick_prependOut]
      exact step_nil_armed (s := prependOut before s) hs harmed
    | false =>
      rw [step_nil_idle hs harmed]
      exact step_nil_idle (s := prependOut before s) hs harmed

/-- Settles O17: the statement is `step_prependOut`, its match being `mapNext`. -/
theorem displayIsAPureObserver : Obligations.DisplayIsAPureObserver := by
  intro s before
  exact (step_prependOut before s).trans (by cases step s <;> rfl)

end Sys2Proof.Machine
end

section
/-! A POLL and a tick commute (R62). -/

namespace Sys2Proof.Machine

theorem tick_applyStep (d : Direction) (s : State) : tick (applyStep d s) = applyStep d (tick s) := by
  unfold tick tickDisarm tickCount
  by_cases hrem : 0 < s.seekRem.toNat
  · simp only [applyStep_seekRem, if_pos hrem]
    split <;> cases d <;> rfl
  · simp only [applyStep_seekRem, if_neg hrem]
    split <;> cases d <;> rfl

theorem tick_jog (d : Direction) (s : State) : tick (jog d s) = jog d (tick s) := by
  by_cases hd : d = .none
  · subst hd; rfl
  · rw [jog_of_ne_none hd, jog_of_ne_none hd, tick_applyStep]

theorem tick_pollWrites (s : State) : tick (pollWrites s) = pollWrites (tick s) := by
  unfold tick tickDisarm tickCount
  split <;> split <;> rfl

theorem polled_tick (s : State) : polled (tick s) = polled s := by
  obtain ⟨-, -, -, -, -, -, -, -, -, -, -, hlines, hcount⟩ := tick_spec s
  simp only [polled, lineAt, hlines, hcount]

/-- The tick writes the seek job and the POLL the decoder and the motor, and neither reads what the other writes. -/
theorem tick_pollResult (s : State) : tick (pollResult s) = pollResult (tick s) := by
  obtain ⟨-, -, -, -, -, -, -, -, ⟨hprev, -⟩, -⟩ := tick_spec s
  calc tick (pollResult s)
    _ = jog (quadDirection s.encPrev (polled s)) (pollWrites (tick s)) := by rw [tick_jog, tick_pollWrites]
    _ = pollResult (tick s) := by rw [pollResult, hprev, polled_tick]

/-- Settles O23: a POLL leaves the timer armed, so the tick is admitted after it too, and `tick_pollResult` does the rest. -/
theorem pollAndTickCommute : Obligations.PollAndTickCommute := by
  intro s harmed
  obtain ⟨-, ⟨-, -, -, hpolled⟩, -⟩ := pollResult_frame s
  refine ⟨pollResult s, tick s, pollResult (tick s), exec_poll s, ?pollFirst, tickEvent_armed harmed, exec_poll (tick s)⟩
  case pollFirst => rw [tickEvent_armed (hpolled.trans harmed), tick_pollResult]

end Sys2Proof.Machine
end

section
/-! Mode switches there and back, and what one loses (R138, R139). -/

namespace Sys2Proof.Machine

theorem exec_modeToggle_of_mode {s : State} {m : Mode} (hm : s.mode = m) :
    exec .modeToggle s = .next (setMode (otherMode m) s) := by subst hm; rfl

/-- The switch to Half keeps the angle: twice the steps of half the size (R139). -/
theorem angleQ2_setMode_half {s : State} (hr : RangesOk s) (hm : s.mode = .full) :
    angleQ2 (setMode .half s) = angleQ2 s := by
  obtain ⟨-, hpos, -⟩ := setMode_half_doubles hr hm
  obtain ⟨-, hr', -⟩ := setMode_half_ranges hr hm
  obtain ⟨-, hpos', -⟩ := hr
  refine BitVec.eq_of_toNat_eq ?_
  rw [angleQ2_toNat hr', angleQ2_toNat hpos', hpos, setMode_mode, hm, Nat.mul_assoc]; rfl

/-- From Full the halving undoes the doubling (R139). -/
theorem setMode_full_half {s : State} (hr : RangesOk s) (hm : s.mode = .full) :
    (setMode .full (setMode .half s)).phase = s.phase ∧ (setMode .full (setMode .half s)).pos = s.pos ∧
    (setMode .full (setMode .half s)).mark = s.mark := by
  obtain ⟨hphase, hpos, hmark⟩ := setMode_half_doubles hr hm
  obtain ⟨hphase', hpos', hmark'⟩ := setMode_full_halves (setMode_mode .half s)
  refine ⟨BitVec.eq_of_toNat_eq ?_, BitVec.eq_of_toNat_eq ?_, BitVec.eq_of_toNat_eq ?_⟩ <;> omega

/-- A register that is halved and doubled is restored if and only if it was even. -/
theorem eq_iff_even_of_toNat_eq {w : Nat} {v v' : BitVec w} (h : v'.toNat = v.toNat / 2 * 2) :
    v' = v ↔ v.toNat % 2 = 0 := by
  rw [← BitVec.toNat_inj, h]; omega

/-- From Half the halving rounds first (R139). -/
theorem setMode_half_full_iff {s : State} (hr : RangesOk s) (hm : s.mode = .half) :
    ((setMode .half (setMode .full s)).phase = s.phase ∧ (setMode .half (setMode .full s)).pos = s.pos ∧
      (setMode .half (setMode .full s)).mark = s.mark) ↔
    s.phase.toNat % 2 = 0 ∧ s.pos.toNat % 2 = 0 ∧ s.mark.toNat % 2 = 0 := by
  obtain ⟨hphase, hpos, hmark⟩ := setMode_full_halves hm
  obtain ⟨hphase', hpos', hmark'⟩ := setMode_half_doubles (setMode_full_ranges hr hm) (setMode_mode .full s)
  rw [hphase] at hphase'
  rw [hpos] at hpos'
  rw [hmark] at hmark'
  rw [eq_iff_even_of_toNat_eq hphase', eq_iff_even_of_toNat_eq hpos', eq_iff_even_of_toNat_eq hmark']

/-- Settles O32: the two commands are `set_mode` to the other mode and back. -/
theorem modeSwitchRoundTrips : Obligations.ModeSwitchRoundTrips := by
  intro s hr
  cases hm : s.mode with
  | full =>
    refine ⟨_, _, exec_modeToggle_of_mode hm, exec_modeToggle_of_mode (setMode_mode _ s), setMode_mode _ _,
      fun _ => ?_, nofun⟩
    obtain ⟨hphase, hpos, hmark⟩ := setMode_full_half hr hm
    exact ⟨hphase, hpos, hmark, angleQ2_setMode_half hr hm⟩
  | half =>
    exact ⟨_, _, exec_modeToggle_of_mode hm, exec_modeToggle_of_mode (setMode_mode _ s), setMode_mode _ _,
      nofun, fun _ => setMode_half_full_iff hr hm⟩

/-- Settles O33: an angle of 15 per Half step against 30 per Full step, with the position halved and rounded down. -/
theorem halfToFullLosesAHalfStep : Obligations.HalfToFullLosesAHalfStep := by
  intro s hr hm
  obtain ⟨-, hpos, -⟩ := setMode_full_halves hm
  obtain ⟨-, hr', -⟩ := setMode_full_ranges hr hm
  obtain ⟨-, hpos', -⟩ := hr
  have hfull : anglePerStepQ2 .full = 30 := rfl
  have hhalf : anglePerStepQ2 .half = 15 := rfl
  refine ⟨_, exec_setFull s, ?_⟩
  rw [angleQ2_toNat hpos', angleQ2_toNat hr', setMode_mode, hm, hpos, hfull, hhalf]
  omega

end Sys2Proof.Machine
end

section
/-! Encoder states from which no POLL finds a direction (R159). -/

namespace Sys2Proof.Machine

/-- Both rows of the transition table start with line B high (R154). -/
theorem quadDirection_of_b_low {prev : BitVec 2} (h : prev.getLsbD 1 = false) (cur : BitVec 2) :
    quadDirection prev cur = .none := by
  revert prev cur; decide

theorem pollResult_of_b_low {s : State} (h : s.encPrev.getLsbD 1 = false) :
    (pollResult s).lastPollDir = .none ∧ SameMotor s (pollResult s) := by
  have hnone := quadDirection_of_b_low h (polled s)
  obtain ⟨-, hdir⟩ := pollResult_decoder s
  exact ⟨hdir.trans hnone, pollResult_sameMotor hnone⟩

theorem run_reset_poll {s : State} {lines : List EncSample} {rest : List Event}
    (hs : s.events = .reset :: .command (encode .poll) lines :: rest) :
    core.run 2 s = .next (pollResult (driveLines lines (resetEvent { s with events := rest }))) :=
  (run_succ (step_reset hs)).trans (run_succ ((step_encode rfl).trans (exec_poll _)))

/-- Settles O35: a reset leaves `ENC_PREV` at 00, where line B is low, and the POLL after it keeps the reset's motor. -/
theorem firstPollAfterResetReturnsNone : Obligations.FirstPollAfterResetReturnsNone := by
  intro s rest lines more hs
  have hreset : (driveLines lines (resetEvent { s with events := rest })).encPrev.getLsbD 1 = false :=
    show (0#2).getLsbD 1 = false by decide
  obtain ⟨hdir, -, hphase, hpos, hcoil, hout⟩ := pollResult_of_b_low hreset
  refine ⟨_, run_reset_poll hs, hdir, hphase, hpos, hcoil, hout, fun u hu => ⟨_, exec_poll _, ?_⟩⟩
  exact pollResult_of_b_low (s := { u with encLines := more }) hu

end Sys2Proof.Machine
end

section
/-! The shorter way round, and where a job of half its length in double steps ends (R173, R177 to R180). -/

namespace Sys2Proof.Machine

/-- One way round from `p` to `m`, written without the modulus. -/
theorem add_sub_mod_eq {p m M : Nat} (hp : p < M) (hm : m < M) :
    (p + M - m) % M = if m ≤ p then p - m else p + M - m := by
  split
  case isTrue h => rw [Nat.sub_add_comm h, Nat.add_mod_right, Nat.mod_eq_of_lt (by omega)]
  case isFalse h => exact Nat.mod_eq_of_lt (by omega)

/-- `compute_seek` over the two ways round: half the shorter one, and on a tie the first branch's direction (R172, R177). -/
theorem computeSeek_eq_shorter {p m M F B : Nat} (hp : p < M) (hm : m < M) (hF : F = (p + M - m) % M)
    (hB : B = (m + M - p) % M) :
    computeSeek p m M =
      (min F B / 2, if F < B then .forward else if B < F then .backward else if m ≤ p then .forward else .backward) := by
  rw [add_sub_mod_eq hp hm] at hF
  rw [add_sub_mod_eq hm hp] at hB
  rw [computeSeek_spec hp hm]
  split_ifs at hF hB ⊢ <;> simp only [Prod.mk.injEq, reduceCtorEq, and_true, and_false] <;> omega

/-- Settles O41: the clauses are read off `computeSeek_eq_shorter`, and the bound is `computeSeek_bound`. -/
theorem seekTakesTheShortestPath : Obligations.SeekTakesTheShortestPath := by
  intro md p m F B hp hm hF hB
  have hjob := computeSeek_eq_shorter hp hm hF hB
  refine ⟨by rw [hjob], fun h => ?forward, fun h => ?backward, fun h => ?tie, computeSeek_bound hp hm⟩
  case forward => rw [hjob, if_pos h]
  case backward => rw [hjob, if_neg h.not_gt, if_pos h]
  case tie => rw [hjob, if_neg h.not_lt, if_neg h.not_gt]

theorem emod_eq_of_eq_add_multiple {x : Int} {m M : Nat} (hm : m < M) (h : x = m ∨ x = m - M ∨ x = m + M) :
    x % M = m := by
  rcases h with rfl | rfl | rfl
  · exact Int.emod_eq_of_lt (by omega) (by omega)
  · rw [Int.sub_emod_right, Int.emod_eq_of_lt (by omega) (by omega)]
  · rw [Int.add_emod_right, Int.emod_eq_of_lt (by omega) (by omega)]

/-- The whole of the shorter way round, in the job's direction, leads to the mark (R179). -/
theorem shorter_way_reaches_mark {p m M F B : Nat} (hp : p < M) (hm : m < M) (hF : F = (p + M - m) % M)
    (hB : B = (m + M - p) % M) :
    ((p : Int) + stepDelta (computeSeek p m M).2 * (min F B : Nat)) % M = m := by
  rw [add_sub_mod_eq hp hm] at hF
  rw [add_sub_mod_eq hm hp] at hB
  refine emod_eq_of_eq_add_multiple hm ?_
  rw [computeSeek_spec hp hm]
  split_ifs at hF hB ⊢ <;> simp only [stepDelta] <;> omega

/-- Settles O42: the count is half the shorter way round, so twice the count is all of it or all but one step. -/
theorem seekJobReachesTheMark : Obligations.SeekJobReachesTheMark := by
  intro md p m rem F B dir target hp hm hF hB hjob htarget
  have hreach := shorter_way_reaches_mark hp hm hF hB
  have hrem : rem = min F B / 2 := by
    rw [computeSeek_eq_shorter hp hm hF hB] at hjob
    exact (Prod.mk.inj hjob).1.symm
  rw [hjob] at hreach
  refine ⟨fun heven => ?even, fun hodd => ?odd⟩
  case even =>
    rw [htarget, ← hreach]
    congr 3
    omega
  case odd =>
    rw [htarget, Int.emod_add_emod, ← hreach, add_assoc, ← mul_add_one]
    congr 3
    omega

end Sys2Proof.Machine
end

section
/-! A seek whose every tick is serviced (R183, R187). -/

namespace Sys2Proof.Machine

/-- A seek in direction `d` with `n` ticks to come and no step due. -/
def SeekUnderWay (d : Direction) (n : Nat) (s : State) : Prop :=
  RangesOk s ∧ TimerCoherent s ∧ s.stepDue = false ∧ s.seekDir = d ∧ s.seekRem.toNat = n

/-- What `n` serviced ticks of a seek in direction `d` do from `s` to `t`: two steps and their emissions each. -/
def SeekProgress (d : Direction) (n : Nat) (s t : State) : Prop :=
  MovedBy (stepDelta d * (2 * n)) s t ∧ t.mark = s.mark ∧
  ∃ new, t.out = s.out ++ new ∧ emissionCounts new = (2 * n, 2 * n, n)

theorem seekProgress_zero (d : Direction) {s : State} (hr : RangesOk s) : SeekProgress d 0 s s :=
  ⟨by simpa using movedBy_zero hr, rfl, [], (List.append_nil _).symm, rfl⟩

theorem seekProgress_trans {d : Direction} {m n : Nat} {s t u : State} (h : SeekProgress d m s t)
    (h' : SeekProgress d n t u) : SeekProgress d (m + n) s u := by
  obtain ⟨hmoved, hmark, new, hout, hcounts⟩ := h
  obtain ⟨hmoved', hmark', new', hout', hcounts'⟩ := h'
  refine ⟨?moved, hmark'.trans hmark, new ++ new', ?out, ?counts⟩
  case moved =>
    have hsum : stepDelta d * (2 * (m + n : Nat)) = stepDelta d * (2 * m) + stepDelta d * (2 * n) := by push_cast; ring
    rw [hsum]; exact movedBy_trans hmoved hmoved'
  case out => rw [hout', hout, List.append_assoc]
  case counts => rw [emissionCounts_append, hcounts, hcounts', Nat.mul_add]

/-- An empty count means a stopped timer (R29). -/
theorem seekComplete_of_underWay_zero {d : Direction} {s : State} (h : SeekUnderWay d 0 s) : SeekComplete s := by
  obtain ⟨-, htimer, hdue, -, hrem⟩ := h
  refine ⟨BitVec.eq_of_toNat_eq hrem, ?_, hdue⟩
  rw [TimerCoherent, hrem] at htimer
  simpa using htimer

/-- A SERVICE of the step a tick made due (R182, R185). -/
theorem serviceDue_tick {d : Direction} (hd : d ≠ .none) {n : Nat} {s : State} (hs : SeekUnderWay d (n + 1) s) :
    (tick s).stepDue = true ∧ SeekUnderWay d n (serviceDue (tick s)) ∧ SeekProgress d 1 s (serviceDue (tick s)) := by
  obtain ⟨hr, htimer, -, hdir, hrem⟩ := hs
  obtain ⟨hrem', hdue, -, -, -, hdir', hmark', ⟨hmode', hphase', hpos', -, hout'⟩, -⟩ := tick_spec s
  obtain ⟨u, hfirst, hsecond, -, -, hcleared, hout, hrem'', hdir'', harmed, hmark, -⟩ :=
    serviceDue_spec (s := tick s) (by rwa [hdir', hdir])
  have hmoved : MovedBy (stepDelta d * (2 * (1 : Nat))) s (serviceDue (tick s)) := by
    have h := movedBy_trans hfirst hsecond
    rw [hdir', hdir] at h
    simpa only [MovedBy, hmode', hphase', hpos', Nat.cast_one, mul_one, mul_two] using h
  refine ⟨hdue (by omega), ⟨movedBy_rangesOk hmoved (hmark.trans hmark') hr, ?timer, hcleared, ?dir, ?rem⟩, hmoved,
    hmark.trans hmark', announced u ++ announced (serviceDue (tick s)) ++ [.hilite (serviceDue (tick s)).hilite], ?out, rfl⟩
  case timer => rw [TimerCoherent, harmed, hrem'']; exact tick_timerCoherent htimer
  case dir => rw [hdir'', hdir', hdir]
  case rem => rw [hrem'', hrem', hrem]; rfl
  case out => rw [hout, hout']; simp only [List.append_assoc]

/-- A tick neither reads nor writes the host's inputs. -/
theorem tick_withInputs (s : State) (es : List Event) (lines : List EncSample) :
    tick { s with events := es, encLines := lines } = { tick s with events := es, encLines := lines } := by
  unfold tick tickDisarm tickCount
  split <;> split <;> rfl

/-- One tick and the SERVICE after it, as the first two steps of a run. -/
theorem run_servicedTick {d : Direction} (hd : d ≠ .none) {n : Nat} {s : State} {rest : List Event}
    (hs : SeekUnderWay d (n + 1) s) (hev : s.events = .tick :: .command (encode .service) [] :: rest) :
    ∃ t, (∀ k, core.run (k + 2) s = core.run k t) ∧ SeekUnderWay d n t ∧ SeekProgress d 1 s t ∧ t.events = rest := by
  let s' : State := { s with events := rest, encLines := [] }
  obtain ⟨hdue, hunder, hticks⟩ := serviceDue_tick (s := s') hd hs
  obtain ⟨-, -, -, -, -, -, -, hevents, -⟩ := serviceDue_frame (tick s')
  obtain ⟨-, -, -, -, -, -, -, -, -, -, hevents', -⟩ := tick_spec s'
  have harmed : s.timerArmed = true := by
    obtain ⟨-, htimer, -, -, hrem⟩ := hs
    exact htimer.mpr (by omega)
  have hservice : step { tick s with events := .command (encode .service) [] :: rest } = .next (serviceDue (tick s')) :=
    calc step { tick s with events := .command (encode .service) [] :: rest }
      _ = exec .service { tick s with events := rest, encLines := [] } :=
        step_encode (s := { tick s with events := .command (encode .service) [] :: rest }) rfl
      _ = exec .service (tick s') := congrArg _ (tick_withInputs s rest []).symm
      _ = .next (serviceDue (tick s')) := exec_service_due hdue
  exact ⟨_, fun k => (run_succ (step_tick_armed hev harmed)).trans (run_succ hservice), hunder, hticks,
    hevents.trans hevents'⟩

theorem run_servicedTicks {d : Direction} (hd : d ≠ .none) {n : Nat} {s : State} {rest : List Event}
    (hs : SeekUnderWay d n s) (hev : s.events = servicedTicks n rest) :
    ∃ t, core.run (2 * n) s = .next t ∧ SeekUnderWay d 0 t ∧ SeekProgress d n s t ∧ t.events = rest := by
  induction n generalizing s with
  | zero =>
    have ⟨hr, _⟩ := hs
    exact ⟨s, rfl, hs, seekProgress_zero d hr, hev⟩
  | succ n ih =>
    obtain ⟨u, hrun, hunder, hfirst, hrest⟩ := run_servicedTick hd hs hev
    obtain ⟨t, hrun', hdone, hticks, hend⟩ := ih hunder hrest
    exact ⟨t, (hrun (2 * n)).trans hrun', hdone, Nat.add_comm 1 n ▸ seekProgress_trans hfirst hticks, hend⟩

/-- A SEEK with legal registers puts the computed job under way. -/
theorem seekUnderWay_startSeek {s : State} (hr : RangesOk s) {rem : Nat} {dir : Direction}
    (hjob : computeSeek s.pos.toNat s.mark.toNat (posMod s.mode) = (rem, dir)) :
    SeekUnderWay dir rem (startSeek (rem, dir) s) := by
  have ⟨_, hpos, hmark⟩ := hr
  have hbound : rem ≤ posMod s.mode / 4 := by simpa [hjob] using computeSeek_bound hpos hmark
  exact ⟨hr, startSeek_timerCoherent (job := (rem, dir)) hbound, rfl, rfl,
    startSeek_seekRem_toNat (job := (rem, dir)) hbound⟩

/-- Settles O45: SEEK puts the job under way, and each tick with its SERVICE takes one unit off the count. -/
theorem servicedSeekCompletes : Obligations.ServicedSeekCompletes := by
  intro s lines rest rem dir hr hjob hev
  let s' : State := driveLines lines { s with events := servicedTicks rem rest }
  have hstep : step s = .next (startSeek (rem, dir) s') :=
    calc step s
      _ = .next (startSeek (computeSeek s.pos.toNat s.mark.toNat (posMod s.mode)) s') := step_encode hev
      _ = .next (startSeek (rem, dir) s') := by rw [hjob]
  have hunder : SeekUnderWay dir rem (startSeek (rem, dir) s') := seekUnderWay_startSeek (s := s') hr hjob
  have hdir : dir ≠ .none := by simpa [hjob] using computeSeek_dir_ne_none s.pos.toNat s.mark.toNat (posMod s.mode)
  obtain ⟨t, hrun, hdone, ⟨⟨-, hpos, hmode⟩, hmark, new, hout, hcounts⟩, hend⟩ := run_servicedTicks hdir hunder rfl
  have ⟨_, _, _, hseekDir, _⟩ := hdone
  rw [Nat.add_comm]
  exact ⟨t, new, (run_succ hstep).trans hrun, seekComplete_of_underWay_zero hdone, hpos, hmode, hmark, hseekDir, hend,
    hout, hcounts⟩

end Sys2Proof.Machine
end

section
/-! The timer's liveness in the model's form (R183, log entry 3). -/

namespace Sys2Proof.Machine

/-- A command other than SEEK and a reserved code leave the timer and the count alone. -/
theorem step_leavesSeekRunning {s : State} {e : Event} {rest : List Event} (hs : s.events = e :: rest)
    (he : leavesSeekRunning e = true) :
    ∃ t, step s = .next t ∧ t.events = rest ∧ t.timerArmed = s.timerArmed ∧ t.seekRem = s.seekRem := by
  cases e with
  | tick | reset => exact absurd he Bool.false_ne_true
  | command w lines =>
    rcases Nat.lt_or_ge w.toNat 10 with hcommand | hreserved
    · obtain ⟨i, -, rfl⟩ := decode_lt hcommand
      have hi : i ≠ .seek := by rintro rfl; exact absurd he Bool.false_ne_true
      obtain ⟨t, ht⟩ := exec_next i (driveLines lines { s with events := rest })
      obtain ⟨hkept, -, hevents⟩ := exec_seek_signals ht
      obtain ⟨hrem, -, harmed⟩ := hkept hi
      exact ⟨t, (step_encode hs).trans ht, hevents, harmed, hrem⟩
    · exact ⟨_, step_reserved hs hreserved, rfl, rfl, rfl⟩

/-- Settles O46: by induction on the host's events, each of which leaves the seek running; then the idle step is a tick. -/
theorem armedTimerEventuallyTicks : Obligations.ArmedTimerEventuallyTicks := by
  intro s harmed hall
  induction hev : s.events generalizing s with
  | nil => exact ⟨s, rfl, hev, harmed, rfl, run_succ (step_nil_armed hev harmed)⟩
  | cons e rest ih =>
    rw [hev] at hall
    obtain ⟨t, hstep, hrest, harmed', hrem⟩ := step_leavesSeekRunning hev (hall e List.mem_cons_self)
    obtain ⟨u, hrun, hnil, harmed'', hrem', htick⟩ :=
      ih t (harmed'.trans harmed) (fun e' he' => hall e' (List.mem_cons_of_mem e (hrest ▸ he'))) hrest
    exact ⟨u, (run_succ hstep).trans hrun, hnil, harmed'', hrem'.trans hrem, (run_succ hstep).trans htick⟩

end Sys2Proof.Machine
end
